-- ==== Sys2Proof/Word.lean ====
section
/-! DEFINITION. The value types of CORE (spec/00_scope.md rule R5). All values are unsigned. -/

namespace Sys2Proof

/-- A 4-bit value (R5). "All internal cipher state is nibble-granular" (glossary). -/
abbrev Nibble := BitVec 4

/-- A byte (R5). -/
abbrev Byte := BitVec 8

/-- A 32-bit register or command word (R5). -/
abbrev Word32 := BitVec 32

/-- A 64-bit block, tweakey word or round key (R5). -/
abbrev Word64 := BitVec 64

/-- A byte offset within the register window, 10 bits wide (R40). -/
abbrev Offset := BitVec 10

/-- A 4x4 grid of nibbles in row-major order: cell `i` is in row `i / 4` and column `i mod 4` (R5, R6). -/
abbrev Nib16 := Vector Nibble 16

end Sys2Proof
end

