-- ==== Sys2Proof/Config.lean ====
section
/-! DEFINITION. The implementation parameters of spec/00_scope.md rule R4, and the free values.
The constant tables, the ID value and the LFSR scope are in Machine/Tables.lean. -/

namespace Sys2Proof

/-- `MAX_ROUNDS` = `RC_ENTRIES` = `RK_ENTRIES` = 48 (R4). -/
abbrev Config.maxRounds : Nat := 48

/-- FREE VALUE (R51, 93_implementation_defined.md A4; log 4): what the `n`-th read of `BLK_OUT` or `RK` made
while busy returns. "A model draws it freely, and the draw need not equal any value the register held." -/
opaque Config.busyRead : Nat → Word32

/-- OPEN (R4, R40; log 16): which multiple of 0x400 the platform puts the register window at. -/
opaque Config.coreBaseIndex : Nat

/-- `CORE_BASE`, a multiple of 0x400 (R40). No rule depends on it. -/
def Config.coreBase : Nat := 0x400 * Config.coreBaseIndex

/-- The bus address at which the host reaches the register at a window offset (R40). -/
def Config.busAddress (off : Offset) : Nat := Config.coreBase + off.toNat

/-- OPEN (R4, R172; log 16): the clock cycles beyond the first that the `n`-th accepted command takes. -/
opaque Config.latencyBeyondOne : Nat → Nat

/-- `LATENCY`, at least 1 (R172). The model is untimed, so no rule of the model reads it. -/
def Config.latency (n : Nat) : Nat := Config.latencyBeyondOne n + 1

/-- The values of the parameter `LFSR_SCOPE` (R87; 90_conflicts.md C3). -/
inductive LfsrScope where
  /-- Cells 0 to 15: this hardware's value. -/
  | all16
  /-- Cells 0 to 7: not this hardware; "used only for cross-checking against the published cipher". -/
  | rows01
  deriving DecidableEq, Repr

end Sys2Proof
end

