-- ==== Sys2Proof/Syntax.lean ====
section
/-! DEFINITION. The commands of CORE: one constructor per row of spec/opcode_table.json (spec/30_encoding.md R60 to R66).
The data operands stand in registers; the only field an instruction carries is `ROUNDS`, six bits wide (R64). -/

namespace Sys2Proof

/-- A command of CORE, as `Decode` gives it and `LCMD` latches it (R30, R66; log 14). -/
inductive Instr where
  /-- `NOP` (R120). -/
  | nop
  /-- `EXPAND.S R`: key schedule, Single variant, z = 1 (R91). -/
  | expandS (rounds : BitVec 6)
  /-- `EXPAND.D R`: key schedule, Double variant, z = 2 (R92). -/
  | expandD (rounds : BitVec 6)
  /-- `EXPAND.T R`: key schedule, Triple variant, z = 3 (R93). -/
  | expandT (rounds : BitVec 6)
  /-- `ENCRYPT R`: block transform (R109). -/
  | encrypt (rounds : BitVec 6)
  /-- `CLEAR`: zero all data registers (R121). -/
  | clear
  deriving DecidableEq, Repr

end Sys2Proof
end

