-- ==== Sys2Proof/WellFormed.lean ====
section
/-! DEFINITION. Which instructions are legal: the round count is at most `MAX_ROUNDS` = 48 (spec/30_encoding.md R64). -/

namespace Sys2Proof

/-- The `ROUNDS` field of a command; NOP and CLEAR require it to be 0 (R64). -/
def Instr.rounds : Instr → BitVec 6
  | .nop => 0
  | .expandS R => R
  | .expandD R => R
  | .expandT R => R
  | .encrypt R => R
  | .clear => 0

/-- EXPAND and ENCRYPT accept `0 ≤ R ≤ MAX_ROUNDS` (R64). -/
abbrev Instr.WellFormed (i : Instr) : Prop := i.rounds.toNat ≤ Config.maxRounds

end Sys2Proof
end

