-- ==== Sys2Proof/Decode.lean ====
section
/-! DEFINITION. The command word: its fields, `Decode` (total on every word, rejecting by error code) and the
encoder (spec/30_encoding.md R60 to R66, spec/60_exceptions.md R132). -/

namespace Sys2Proof

/-- The command error codes held in `STATUS.ECODE` (R132). Codes 0x6 to 0xF are reserved and never produced. -/
inductive ErrCode where
  /-- 0x0 `NONE`: no error recorded. -/
  | noError
  /-- 0x1 `ILLEGAL_CMD` (R134). -/
  | illegalCmd
  /-- 0x2 `BAD_VARIANT` (R135). -/
  | badVariant
  /-- 0x3 `BAD_ROUNDS` (R136). -/
  | badRounds
  /-- 0x4 `BUSY_CMD` (R138). -/
  | busyCmd
  /-- 0x5 `BUSY_WRITE` (R137). -/
  | busyWrite
  deriving DecidableEq, Repr

/-- The four bits of `STATUS.ECODE` (R132). -/
def ErrCode.code : ErrCode → BitVec 4
  | .noError => 0x0
  | .illegalCmd => 0x1
  | .badVariant => 0x2
  | .badRounds => 0x3
  | .busyCmd => 0x4
  | .busyWrite => 0x5

/-- `OP`, bits 3:0 (R61). -/
def opField (w : Word32) : BitVec 4 := w.extractLsb' 0 4

/-- `VAR`, bits 5:4 (R61). -/
def varField (w : Word32) : BitVec 2 := w.extractLsb' 4 2

/-- `RSV0`, bits 7:6 (R61). -/
def rsv0Field (w : Word32) : BitVec 2 := w.extractLsb' 6 2

/-- `ROUNDS`, bits 13:8 (R61, R64). -/
def roundsField (w : Word32) : BitVec 6 := w.extractLsb' 8 6

/-- `RSV1`, bits 31:14 (R61). -/
def rsv1Field (w : Word32) : BitVec 18 := w.extractLsb' 14 18

/-- EXPAND with `VAR` = 1, 2, 3 is the Single, Double, Triple variant (R63). -/
def expandOfVar (var : BitVec 2) (R : BitVec 6) : Instr :=
  if var = 1 then .expandS R else if var = 2 then .expandD R else .expandT R

/-- `Decode(w)`: the checks in exactly the order of R66; the first that fails gives the error code. -/
def decode (w : Word32) : Except ErrCode Instr :=
  if rsv1Field w ≠ 0 ∨ rsv0Field w ≠ 0 then .error .illegalCmd
  else if opField w = 0x0 then
    if varField w ≠ 0 ∨ roundsField w ≠ 0 then .error .illegalCmd else .ok .nop
  else if opField w = 0x1 then
    if varField w = 0 then .error .badVariant
    else if (roundsField w).toNat > Config.maxRounds then .error .badRounds
    else .ok (expandOfVar (varField w) (roundsField w))
  else if opField w = 0x2 then
    if varField w ≠ 0 then .error .illegalCmd
    else if (roundsField w).toNat > Config.maxRounds then .error .badRounds
    else .ok (.encrypt (roundsField w))
  else if opField w = 0x3 then
    if varField w ≠ 0 ∨ roundsField w ≠ 0 then .error .illegalCmd else .ok .clear
  else .error .illegalCmd

/-- A command word from its fields, the reserved ones 0 (R61): `RSV1 ∥ ROUNDS ∥ RSV0 ∥ VAR ∥ OP`. -/
def commandWord (op : BitVec 4) (var : BitVec 2) (R : BitVec 6) : Word32 :=
  (0 : BitVec 18) ++ R ++ (0 : BitVec 2) ++ var ++ op

/-- The `OP` value of a command (R62). -/
def opOf : Instr → BitVec 4
  | .nop => 0x0
  | .expandS _ => 0x1
  | .expandD _ => 0x1
  | .expandT _ => 0x1
  | .encrypt _ => 0x2
  | .clear => 0x3

/-- The `VAR` value of a command (R63): the number of tweakey words for EXPAND, 0 otherwise. -/
def varOf : Instr → BitVec 2
  | .nop => 0
  | .expandS _ => 1
  | .expandD _ => 2
  | .expandT _ => 3
  | .encrypt _ => 0
  | .clear => 0

/-- The command word of an instruction (R61 to R64, R71). -/
def encode (i : Instr) : Word32 := commandWord (opOf i) (varOf i) i.rounds

/-- The instruction the decoder reads from an opcode-table row's bits. Every command is exactly one 32-bit
word (R60), so a row of more than 32 bits names none; bits above a shorter row are 0 (log 17). -/
def decodeTableWord (nbits w : Nat) : Option Instr :=
  if nbits ≤ 32 then
    match decode (BitVec.ofNat 32 (w % 2 ^ nbits)) with
    | .ok i => some i
    | .error _ => none
  else none

end Sys2Proof
end

