-- ==== Sys2Proof/Machine/State.lean ====
section
/-! DEFINITION. The state of CORE (spec/10_state.md), the transactions and their responses (spec/20_memory.md R40),
the reasons a step can stop, and the machine right after reset (spec/70_reset_and_hazards.md R160). -/

namespace Sys2Proof.Machine

/-- The two responses of a bus transaction (R40). -/
inductive Resp where
  /-- The transaction took effect. -/
  | okay
  /-- The transaction was refused and changed no state of CORE (R140). -/
  | error
  deriving DecidableEq, Repr

/-- A host transaction: 32 bits, no byte enables (R40, R42). -/
inductive Txn where
  /-- `BusRead(off)`. -/
  | read (off : Offset)
  /-- `BusWrite(off, v)`. -/
  | write (off : Offset) (v : Word32)
  deriving DecidableEq, Repr

/-- What a transaction returns to the host: a response, and for a read 32 bits of data (R5, R40). -/
inductive Reply where
  /-- `(resp, data)` of a `BusRead`. -/
  | read (resp : Resp) (data : Word32)
  /-- `resp` of a `BusWrite`. -/
  | write (resp : Resp)
  deriving DecidableEq, Repr

/-- One step of the outside schedule (R10): "In any model step exactly one of these acts". -/
inductive Event where
  /-- The host performs a transaction. -/
  | host (t : Txn)
  /-- The engine takes its step `Complete`. -/
  | engine
  /-- The reset input. -/
  | reset
  /-- The host performs a transaction while `rst` is asserted, which R161 does not model. -/
  | hostInReset (t : Txn)
  deriving DecidableEq, Repr

/-- The host-visible registers of the window (R41). -/
inductive Reg where
  /-- `ID`, read-only (R12). -/
  | id
  /-- `CMD`, write-only (R13). -/
  | cmd
  /-- `STATUS`, read-only and W1C bits (R14 to R18). -/
  | status
  /-- `IRQ_EN`, read-write (R19). -/
  | irqEn
  /-- `TK[w]`, read-write (R20). -/
  | tk (w : Fin 6)
  /-- `BLK_IN[k]`, read-write (R22). -/
  | blkIn (k : Fin 2)
  /-- `BLK_OUT[k]`, read-only (R23). -/
  | blkOut (k : Fin 2)
  /-- `RK[e].HI`, read-write (R25). -/
  | rkHi (e : Fin 48)
  /-- `RK[e].LO`, read-write (R25). -/
  | rkLo (e : Fin 48)
  deriving DecidableEq, Repr

/-- An entry `RK[e] = RK[e].HI ∥ RK[e].LO` of the round-key store (R25). -/
structure RkEntry where
  hi : Word32
  lo : Word32
  deriving DecidableEq, Repr

/-- `engine_phase` (R31). -/
inductive Phase where
  | idle
  | busy
  deriving DecidableEq, Repr

/-- CORE raises no traps (R130): an error is recorded in `STATUS` or returned as a bus response, and the machine
goes on. So no step ends in a fault and this type has no constructor. Safe: there is nothing to raise. -/
inductive Fault where
  deriving DecidableEq, Repr

/-- The reasons a step is refused. -/
inductive Refusal where
  /-- An instruction without a meaning. Raised by no arm of `exec`. Safe: the model would stop. -/
  | notModelled (mnemonic : String)
  /-- Raised by `takeTurn` for a host transaction while `rst` is asserted: "A transaction during reset is not
  modelled" (R161, A6; log 10). Safe: the model stops where the spec says nothing. -/
  | transactionInReset
  /-- Raised by `performRounds` for EXPAND or ENCRYPT with `ROUNDS` from 49 to 63, which the decoder rejects with
  `BAD_ROUNDS` at issue and `LCMD` never holds (R66, R136, A1: "The model never computes a value for it"; log 13).
  Safe: the model stops. -/
  | roundsAboveTable
  deriving DecidableEq, Repr

/-- The state of CORE. `STATUS.BUSY` and `engine_phase` are views of `lcmd` (R14, R31; Machine/Flags.lean).
The internal `S`, `T` and `r` hold no value between steps (R27 to R29, A15). -/
structure State where
  /-- `STATUS.DONE` (R15). -/
  done : Bool
  /-- `STATUS.ERR` (R16). -/
  err : Bool
  /-- `STATUS.ECODE` (R17). -/
  ecode : ErrCode
  /-- `IRQ_EN` (R19). -/
  irqEn : Word32
  /-- `TK[0]` to `TK[5]` (R20). -/
  tk : Vector Word32 6
  /-- `BLK_IN[0]`, `BLK_IN[1]` (R22). -/
  blkIn : Vector Word32 2
  /-- `BLK_OUT[0]`, `BLK_OUT[1]` (R23). -/
  blkOut : Vector Word32 2
  /-- `RK[0]` to `RK[47]` (R25). -/
  rk : Vector RkEntry 48
  /-- `LCMD`, the latched command (R30). -/
  lcmd : Option Instr
  /-- The model's own field: the steps still to come, oldest first (R10, R52; log 1). -/
  events : List Event
  /-- The model's own field: what the latest transaction returned to the host (R40; log 3). -/
  reply : Option Reply
  /-- The model's own field: how many free values busy reads have drawn (R51; log 4). -/
  draws : Nat
  deriving DecidableEq, Repr

/-- The machine right after reset (R160): every register at the reset value of its rule (R12 to R31). The three
fields of the model's own start empty (logs 1, 3, 4). The model starts here (R161; log 11). -/
def State.reset : State where
  done := false
  err := false
  ecode := .noError
  irqEn := 0
  tk := Vector.replicate 6 0
  blkIn := Vector.replicate 2 0
  blkOut := Vector.replicate 2 0
  rk := Vector.replicate 48 ⟨0, 0⟩
  lcmd := none
  events := []
  reply := none
  draws := 0

end Sys2Proof.Machine
end

