-- ==== Sys2Proof/Machine/Flags.lean ====
section
/-! DEFINITION. The flags: `STATUS` and its fields, `engine_phase`, `IRQ_EN`'s fields and the interrupt output
(spec/10_state.md R14 to R19, R31, spec/60_exceptions.md R144 to R146). -/

namespace Sys2Proof.Machine

/-- `STATUS.BUSY`: 1 exactly when `LCMD ≠ none` (R14, R30; log 5). -/
def State.busy (s : State) : Bool := s.lcmd.isSome

/-- `engine_phase`: `Busy` exactly when `LCMD ≠ none` (R31; log 5). -/
def State.enginePhase (s : State) : Phase := if s.busy then .busy else .idle

/-- The read value of `STATUS`: `zext_32(ECODE ∥ 0b0 ∥ ERR ∥ DONE ∥ BUSY)` (R18). -/
def statusWord (s : State) : Word32 :=
  (s.ecode.code ++ (0 : BitVec 1) ++ BitVec.ofBool s.err ++ BitVec.ofBool s.done
    ++ BitVec.ofBool s.busy : BitVec 8).setWidth 32

/-- `IRQ_EN.DONE_IE`, bit 1 (R19). -/
def State.doneIe (s : State) : Bool := s.irqEn.getLsbD 1

/-- `IRQ_EN.ERR_IE`, bit 2 (R19). -/
def State.errIe (s : State) : Bool := s.irqEn.getLsbD 2

/-- What a write of `v` to `IRQ_EN` stores: `v & 0x00000006` (R19). -/
def irqEnMask (v : Word32) : Word32 := v &&& 0x00000006

/-- The level output `irq = (DONE & DONE_IE) | (ERR & ERR_IE)`, in every state (R146). -/
def State.irq (s : State) : Bool := (s.done && s.doneIe) || (s.err && s.errIe)

end Sys2Proof.Machine
end

