-- ==== Sys2Proof/Machine/Operands.lean ====
section
/-! DEFINITION. How 64-bit values, nibbles and bytes lie in the registers (spec/00_scope.md R5, spec/10_state.md R21,
R24, R26): byte 0 is bits 31:24 of the lowest-offset register and the high nibble of each byte comes first. -/

namespace Sys2Proof.Machine

/-- `nib(X, i) = X[63-4i : 60-4i]`: nibble 0 is the most significant (R5). -/
def nib (x : Word64) (i : Fin 16) : Nibble := x.extractLsb' (60 - 4 * i.val) 4

/-- `byte(X, k) = X[63-8k : 56-8k]` (R5). -/
def byteOf (x : Word64) (k : Fin 8) : Byte := x.extractLsb' (56 - 8 * k.val) 8

/-- The 16 cells of a 64-bit value: cell `i` is `nib(X, i)` (R24, R26, R81, R101). -/
def unpack (x : Word64) : Nib16 := Vector.ofFn fun i => nib x i

/-- Eight nibbles as a 32-bit word, the first in bits 31:28: `Σ zext_32(n_i) << (28 - 4i)` (R88, R108). The nibbles
do not overlap, so the sum is a bitwise OR (log 9). -/
def packNibbles (n0 n1 n2 n3 n4 n5 n6 n7 : Nibble) : Word32 :=
  n0.setWidth 32 <<< 28 ||| n1.setWidth 32 <<< 24 ||| n2.setWidth 32 <<< 20 ||| n3.setWidth 32 <<< 16 |||
    n4.setWidth 32 <<< 12 ||| n5.setWidth 32 <<< 8 ||| n6.setWidth 32 <<< 4 ||| n7.setWidth 32

/-- Cells 0 to 7 as a 32-bit word (R88, R108). -/
def packHigh (k : Nib16) : Word32 := packNibbles k[0] k[1] k[2] k[3] k[4] k[5] k[6] k[7]

/-- Cells 8 to 15 as a 32-bit word (R88, R108). -/
def packLow (k : Nib16) : Word32 := packNibbles k[8] k[9] k[10] k[11] k[12] k[13] k[14] k[15]

/-- Tweakey word `j`, held in `TK[2j]` and `TK[2j+1]` (R21). -/
def tweakeyWord (tk : Vector Word32 6) (j : Fin 3) : Word64 := tk[2 * j.val] ++ tk[2 * j.val + 1]

/-- Tweakey byte `k` is `byte(TK[2m] ∥ TK[2m+1], k - 8m)` with `m = k / 8` (R21). -/
def tweakeyByte (tk : Vector Word32 6) (k : Fin 24) : Byte :=
  byteOf (tweakeyWord tk ⟨k.val / 8, by omega⟩) ⟨k.val % 8, by omega⟩

/-- Tweakey nibble `n` is nibble `n mod 16` of word `n / 16` (R21). -/
def tweakeyNibble (tk : Vector Word32 6) (n : Fin 48) : Nibble :=
  nib (tweakeyWord tk ⟨n.val / 16, by omega⟩) ⟨n.val % 16, by omega⟩

/-- A block is `X = B[0] ∥ B[1]`, for `BLK_IN` and `BLK_OUT` alike (R24). -/
def blockWord (b : Vector Word32 2) : Word64 := b[0] ++ b[1]

/-- The two registers of a block from its 16 cells: the repacking of R108. -/
def packBlock (k : Nib16) : Vector Word32 2 := #v[packHigh k, packLow k]

/-- `RK[e] = RK[e].HI ∥ RK[e].LO` (R25). -/
def RkEntry.word (e : RkEntry) : Word64 := e.hi ++ e.lo

/-- Round key `e` as 16 cells: `K_e[i] = nib(RK[e], i)` (R26). -/
def RkEntry.cells (e : RkEntry) : Nib16 := unpack e.word

/-- The round-key entry that holds 16 cells, all of them written (R90). -/
def packEntry (k : Nib16) : RkEntry := ⟨packHigh k, packLow k⟩

end Sys2Proof.Machine
end

