-- ==== Sys2Proof/Machine/Tables.lean ====
section
/-! DEFINITION. The constants of CORE: the four tables (spec/10_state.md R32 to R36), the ID value (R12) and the LFSR
scope (spec/40_key_schedule.md R87). No command, host access or reset changes them (R36). The values of `SBOX`, `PT`
and `RC` are the defaults of the parameters `SBOX_TABLE`, `PT_TABLE` and `RC_TABLE` (log 8). -/

namespace Sys2Proof.Machine

/-- `ID_VALUE`, the ASCII codes of "SK64" (R12). -/
def idValue : Word32 := 0x534B3634

/-- `LFSR_SCOPE`: this hardware updates all 16 cells (R87; 90_conflicts.md C3). -/
def lfsrScope : LfsrScope := .all16

/-- `SBOX_TABLE` (R32). -/
def sboxTable : Vector Nibble 16 :=
  #v[0xC, 0x6, 0x9, 0x0, 0x1, 0xA, 0x2, 0xB, 0x3, 0x8, 0x5, 0xD, 0x4, 0xE, 0x7, 0xF]

/-- `SBOX[x]` (R32). -/
def sbox (x : Nibble) : Nibble := sboxTable[x.toFin]

/-- `PT_TABLE`: output position `j` takes input position `PT[j]` (R33). -/
def pt : Vector (Fin 16) 16 := #v[9, 15, 8, 13, 10, 14, 12, 11, 0, 1, 2, 3, 4, 5, 6, 7]

/-- `SR[4k + c] = 4k + ((c - k) mod 4)`: output cell `i` takes input cell `SR[i]` (R34). -/
def sr : Vector (Fin 16) 16 := #v[0, 1, 2, 3, 7, 4, 5, 6, 10, 11, 8, 9, 13, 14, 15, 12]

/-- `RC_TABLE`, one byte per round (R35). -/
def rcTable : Vector Byte 48 :=
  #v[0x01, 0x03, 0x07, 0x0F, 0x1F, 0x3E, 0x3D, 0x3B,
     0x37, 0x2F, 0x1E, 0x3C, 0x39, 0x33, 0x27, 0x0E,
     0x1D, 0x3A, 0x35, 0x2B, 0x16, 0x2C, 0x18, 0x30,
     0x21, 0x02, 0x05, 0x0B, 0x17, 0x2E, 0x1C, 0x38,
     0x31, 0x23, 0x06, 0x0D, 0x1B, 0x36, 0x2D, 0x1A,
     0x34, 0x29, 0x12, 0x24, 0x08, 0x11, 0x22, 0x04]

end Sys2Proof.Machine
end

