-- ==== Sys2Proof/Machine/Ops.lean ====
section
/-! DEFINITION. The named operations over the state: the register map, reading and writing a register, recording an
error and acknowledging it (CORE's place of taking an exception and returning from one: spec/60_exceptions.md R130,
R133, R143), ending a command, and the response port. -/

namespace Sys2Proof.Machine

/-- The offset of a register: the rows of the register map (R41). -/
def regOffset : Reg → Offset
  | .id => 0x000
  | .cmd => 0x004
  | .status => 0x008
  | .irqEn => 0x00C
  | .tk w => BitVec.ofNat 10 (0x020 + 4 * w.val)
  | .blkIn k => BitVec.ofNat 10 (0x040 + 4 * k.val)
  | .blkOut k => BitVec.ofNat 10 (0x048 + 4 * k.val)
  | .rkHi e => BitVec.ofNat 10 (0x100 + 8 * e.val)
  | .rkLo e => BitVec.ofNat 10 (0x104 + 8 * e.val)

/-- The registers of the window, in the order of the register map (R41). -/
def allRegs : List Reg :=
  [.id, .cmd, .status, .irqEn] ++ (List.finRange 6).map .tk ++ (List.finRange 2).map .blkIn ++
    (List.finRange 2).map .blkOut ++ (List.finRange 48).map .rkHi ++ (List.finRange 48).map .rkLo

/-- `Reg(off)`: the register the map lists at an offset; `none` is `UNMAPPED`, "An offset not listed is unmapped"
(R41). -/
def regAt (off : Offset) : Option Reg := allRegs.find? fun r => regOffset r = off

/-- `off[1:0] ≠ 0` (R43). -/
def misaligned (off : Offset) : Bool := off.extractLsb' 0 2 ≠ 0

/-- `value(reg)`: the read value 10_state.md gives a register; `CMD` reads 0 (R12 to R25, R46). -/
def readValue (r : Reg) (s : State) : Word32 :=
  match r with
  | .id => idValue
  | .cmd => 0
  | .status => statusWord s
  | .irqEn => s.irqEn
  | .tk w => s.tk[w]
  | .blkIn k => s.blkIn[k]
  | .blkOut k => s.blkOut[k]
  | .rkHi e => s.rk[e].hi
  | .rkLo e => s.rk[e].lo

/-- The registers whose read while busy is unspecified: `BLK_OUT[k]`, `RK[e].HI`, `RK[e].LO` (R51). -/
def isResult : Reg → Bool
  | .blkOut _ => true
  | .rkHi _ => true
  | .rkLo _ => true
  | .id => false
  | .cmd => false
  | .status => false
  | .irqEn => false
  | .tk _ => false
  | .blkIn _ => false

/-- The registers that hold a command's operands and that a write while busy leaves unchanged: `TK[w]`,
`BLK_IN[k]`, `RK[e].HI`, `RK[e].LO` (R47, R50). -/
def isOperand : Reg → Bool
  | .tk _ => true
  | .blkIn _ => true
  | .rkHi _ => true
  | .rkLo _ => true
  | .id => false
  | .cmd => false
  | .status => false
  | .irqEn => false
  | .blkOut _ => false

/-- Store `v` into an operand register, every bit of it (R20, R22, R25). The other registers are not stored to
by this operation. -/
def writeReg (r : Reg) (v : Word32) (s : State) : State :=
  match r with
  | .tk w => { s with tk := s.tk.set w v }
  | .blkIn k => { s with blkIn := s.blkIn.set k v }
  | .rkHi e => { s with rk := s.rk.set e { s.rk[e] with hi := v } }
  | .rkLo e => { s with rk := s.rk.set e { s.rk[e] with lo := v } }
  | .id => s
  | .cmd => s
  | .status => s
  | .irqEn => s
  | .blkOut _ => s

/-- `raise Error(code)`: the first error is kept, and nothing else changes (R133). CORE takes no trap (R130). -/
def raiseError (c : ErrCode) (s : State) : State :=
  if s.err then s else { s with err := true, ecode := c }

/-- A write of `v` to `STATUS`: bit 1 clears `DONE`; bit 2 clears `ERR` and `ECODE`; no other bit has an effect
(R47). It "takes the place of a trap return" (R143). -/
def acknowledge (v : Word32) (s : State) : State :=
  { s with
    done := if v.getLsbD 1 then false else s.done
    err := if v.getLsbD 2 then false else s.err
    ecode := if v.getLsbD 2 then .noError else s.ecode }

/-- Return `r` to the host at the transaction port (R40; log 3). -/
def respond (r : Reply) (s : State) : State := { s with reply := some r }

/-- The end of `Complete`: `LCMD <- none`, so `BUSY` is 0, and `DONE <- 1` (R68). -/
def finishCommand (s : State) : State := { s with lcmd := none, done := true }

/-- `Perform` of a command with `R` rounds and then the end of the command (R68, R69). `R ≤ 48` was checked at
issue (R66), so a larger `R` never reaches the engine: it is refused by name, and nothing is computed (A1; log 13). -/
def performRounds (R : BitVec 6) (perform : State → State) (s : State) : Host.Outcome State Fault Refusal :=
  if R.toNat ≤ Config.maxRounds then .next (finishCommand (perform s)) else .refused .roundsAboveTable

end Sys2Proof.Machine
end

