-- ==== Sys2Proof/Machine/Bus.lean ====
section
/-! DEFINITION. The host's transactions: issuing a command, `BusRead` and `BusWrite` (spec/20_memory.md R40 to R51,
spec/30_encoding.md R67). -/

namespace Sys2Proof.Machine

/-- `Issue(w)`: while busy the word is not decoded and `BUSY_CMD` is raised; otherwise a command is latched or its
error code raised (R67). -/
def issue (w : Word32) (s : State) : State :=
  if s.busy then raiseError .busyCmd s
  else match decode w with
    | .error c => raiseError c s
    | .ok i => { s with lcmd := some i }

/-- A write to an operand register: dropped with `BUSY_WRITE` while busy (R47, R50). -/
def writeOperand (r : Reg) (v : Word32) (s : State) : State :=
  if s.busy then raiseError .busyWrite s else writeReg r v s

/-- A read of a mapped register: while busy a result register answers a fresh free value (R46, R51; log 4). -/
def readMapped (r : Reg) (s : State) : State :=
  if s.busy ∧ isResult r then
    respond (.read .okay (Config.busyRead s.draws)) { s with draws := s.draws + 1 }
  else respond (.read .okay (readValue r s)) s

/-- `BusRead(off)` (R46, with R43 and R44). -/
def busRead (off : Offset) (s : State) : State :=
  if misaligned off then respond (.read .error 0) s
  else match regAt off with
    | none => respond (.read .error 0) s
    | some r => readMapped r s

/-- The effect of a write to a mapped writable register, and `ERROR` for a read-only one (R45, R47). -/
def writeMapped (r : Reg) (v : Word32) (s : State) : State :=
  match r with
  | .id => respond (.write .error) s
  | .blkOut _ => respond (.write .error) s
  | .cmd => respond (.write .okay) (issue v s)
  | .status => respond (.write .okay) (acknowledge v s)
  | .irqEn => respond (.write .okay) { s with irqEn := irqEnMask v }
  | .tk w => respond (.write .okay) (writeOperand (.tk w) v s)
  | .blkIn k => respond (.write .okay) (writeOperand (.blkIn k) v s)
  | .rkHi e => respond (.write .okay) (writeOperand (.rkHi e) v s)
  | .rkLo e => respond (.write .okay) (writeOperand (.rkLo e) v s)

/-- `BusWrite(off, v)` (R47, with R43 and R44). -/
def busWrite (off : Offset) (v : Word32) (s : State) : State :=
  if misaligned off then respond (.write .error) s
  else match regAt off with
    | none => respond (.write .error) s
    | some r => writeMapped r v s

/-- The host performs a transaction (R10, R40). -/
def transact (t : Txn) (s : State) : State :=
  match t with
  | .read off => busRead off s
  | .write off v => busWrite off v s

end Sys2Proof.Machine
end

