-- ==== Sys2Proof/Machine/BlockTransform.lean ====
section
/-! DEFINITION. The block transform: ENCRYPT (spec/41_block_transform.md R100 to R109). -/

namespace Sys2Proof.Machine

/-- SubCells: `S[i] <- SBOX[S[i]]` (R104). -/
def subCells (st : Nib16) : Nib16 := Vector.ofFn fun i => sbox st[i]

/-- AddRoundKey: `S[i] <- S[i] ^ K[i]`, all 16 cells (R103, R105). -/
def addRoundKey (k st : Nib16) : Nib16 := Vector.ofFn fun i => st[i] ^^^ k[i]

/-- ShiftRows: output cell `i` takes input cell `SR[i]` (R106). -/
def shiftRows (st : Nib16) : Nib16 := Vector.ofFn fun i => st[sr[i]]

/-- MixColumns: each column is transformed on its own; the new row 0 uses the new row 3 (R107). -/
def mixColumns (st : Nib16) : Nib16 :=
  Vector.ofFn fun i =>
    let col := i.val % 4
    let a := st[col]
    let b := st[4 + col]
    let cc := st[8 + col]
    let d := st[12 + col]
    let n3 := a ^^^ cc
    if i.val / 4 = 0 then d ^^^ n3
    else if i.val / 4 = 1 then a
    else if i.val / 4 = 2 then b ^^^ cc
    else n3

/-- One round under round key `k`: R104, R105, R106, R107 in that order (R108). -/
def encryptRound (k st : Nib16) : Nib16 := mixColumns (shiftRows (addRoundKey k (subCells st)))

/-- Rounds 0 to `R-1` with round keys `RK[0]` to `RK[R-1]`, in order (R102, R108). -/
def encryptRounds (rk : Vector RkEntry 48) (R : Nat) (st : Nib16) : Nib16 :=
  (rk.toList.take R).foldl (fun now e => encryptRound e.cells now) st

/-- `BlockTransform(R)`: unpack `BLK_IN`, run the rounds, repack into `BLK_OUT` (R100, R101, R108). -/
def blockTransform (R : BitVec 6) (s : State) : State :=
  { s with blkOut := packBlock (encryptRounds s.rk R.toNat (unpack (blockWord s.blkIn))) }

/-- `ENCRYPT R`: `Encrypt(R) = BlockTransform(R)`, then the command ends (R109). -/
def execEncrypt (R : BitVec 6) (s : State) : Host.Outcome State Fault Refusal :=
  performRounds R (blockTransform R) s

end Sys2Proof.Machine
end

