-- ==== Sys2Proof/Machine/Control.lean ====
section
/-! DEFINITION. The control commands: NOP and CLEAR (spec/42_control.md R120, R121). -/

namespace Sys2Proof.Machine

/-- `NOP`: no data effect; the command ends as every command does (R120, R68). -/
def execNop (s : State) : Host.Outcome State Fault Refusal := .next (finishCommand s)

/-- `Clear()`: `TK`, `BLK_IN`, `BLK_OUT` and `RK` become zero (R121). -/
def clearData (s : State) : State :=
  { s with
    tk := Vector.replicate 6 0
    blkIn := Vector.replicate 2 0
    blkOut := Vector.replicate 2 0
    rk := Vector.replicate 48 ⟨0, 0⟩ }

/-- `CLEAR`: zero all data registers, then the command ends (R121, R68). -/
def execClear (s : State) : Host.Outcome State Fault Refusal := .next (finishCommand (clearData s))

end Sys2Proof.Machine
end

