-- ==== Sys2Proof/Machine/KeySchedule.lean ====
section
/-! DEFINITION. The key schedule: EXPAND.S, EXPAND.D and EXPAND.T (spec/40_key_schedule.md R80 to R93). -/

namespace Sys2Proof.Machine

/-- The tweakey state `T` of 16z nibbles, as its words `T_0` to `T_{z-1}` (R28). It lives inside one completion
step only (log 6). -/
inductive TweakeyState where
  /-- z = 1. -/
  | single (t0 : Nib16)
  /-- z = 2. -/
  | double (t0 t1 : Nib16)
  /-- z = 3. -/
  | triple (t0 t1 t2 : Nib16)
  deriving DecidableEq, Repr

/-- The 16 cells of tweakey word `j`: `T_j[i] <- nib(TK[2j] ∥ TK[2j+1], i)` (R81). -/
def unpackWord (tk : Vector Word32 6) (j : Fin 3) : Nib16 := unpack (tweakeyWord tk j)

/-- Extract the active cells 0 to 7 as the XOR of the words' cells; cells 8 to 15 stay 0 (R82). -/
def extractActive : TweakeyState → Nib16
  | .single t0 => Vector.ofFn fun i => if i.val < 8 then t0[i] else 0
  | .double t0 t1 => Vector.ofFn fun i => if i.val < 8 then t0[i] ^^^ t1[i] else 0
  | .triple t0 t1 t2 => Vector.ofFn fun i => if i.val < 8 then t0[i] ^^^ t1[i] ^^^ t2[i] else 0

/-- Inject the constants of round `r`: cell 0 takes the low and cell 4 the high nibble of `RC[r]`, cell 8 takes
0x2 (R83). -/
def injectConstants (r : Fin 48) (k : Nib16) : Nib16 :=
  Vector.ofFn fun i =>
    if i = 0 then k[i] ^^^ (rcTable[r] &&& 0xF).setWidth 4
    else if i = 4 then k[i] ^^^ ((rcTable[r] >>> 4) &&& 0xF).setWidth 4
    else if i = 8 then k[i] ^^^ 0x2
    else k[i]

/-- Permute one word: output position `p` takes input position `PT[p]` (R84). -/
def permuteWord (w : Nib16) : Nib16 := Vector.ofFn fun p => w[pt[p]]

/-- `LFSR2` (R85). -/
def lfsr2 (x : Nibble) : Nibble := ((x <<< 1) &&& 0xE) ^^^ ((x >>> 3) &&& 0x1) ^^^ ((x >>> 2) &&& 0x1)

/-- `LFSR3` (R86). -/
def lfsr3 (x : Nibble) : Nibble := ((x >>> 1) &&& 0x7) ^^^ (x &&& 0x8) ^^^ ((x <<< 3) &&& 0x8)

/-- Whether cell `i` is in `CELLS` (R87). -/
def inCells : LfsrScope → Fin 16 → Bool
  | .all16, _ => true
  | .rows01, i => i.val < 8

/-- Apply an LFSR to every cell of a word that is in `CELLS` (R87). -/
def updateWord (sc : LfsrScope) (f : Nibble → Nibble) (w : Nib16) : Nib16 :=
  Vector.ofFn fun i => if inCells sc i then f w[i] else w[i]

/-- The permutation of every word (R84), then the LFSR update of words 1 and 2 (R87). -/
def nextTweakey (sc : LfsrScope) : TweakeyState → TweakeyState
  | .single t0 => .single (permuteWord t0)
  | .double t0 t1 => .double (permuteWord t0) (updateWord sc lfsr2 (permuteWord t1))
  | .triple t0 t1 t2 =>
    .triple (permuteWord t0) (updateWord sc lfsr2 (permuteWord t1)) (updateWord sc lfsr3 (permuteWord t2))

/-- The tweakey state at the start of round `r`, after `r` permutations and updates (R88). -/
def tweakeyBefore (sc : LfsrScope) (t : TweakeyState) : Nat → TweakeyState
  | 0 => t
  | r + 1 => nextTweakey sc (tweakeyBefore sc t r)

/-- Round key `r`, taken before the round-`r` permutation and update (R82, R83, R88). -/
def roundKey (sc : LfsrScope) (t : TweakeyState) (r : Fin 48) : Nib16 :=
  injectConstants r (extractActive (tweakeyBefore sc t r.val))

/-- Write-back: entries 0 to `R-1` receive all 16 nibbles of their round key, the others keep their values
(R88, R89, R90). Irreducible, so that comparing two states does not compute the store; `unfold` and `simp` open it. -/
@[irreducible] def expandStore (sc : LfsrScope) (t : TweakeyState) (R : BitVec 6) (rk : Vector RkEntry 48) :
    Vector RkEntry 48 :=
  Vector.ofFn fun e => if e.val < R.toNat then packEntry (roundKey sc t e) else rk[e]

/-- `KeySchedule(z, R)`: it writes `RK` and nothing else (R80, R88). -/
def keySchedule (sc : LfsrScope) (t : TweakeyState) (R : BitVec 6) (s : State) : State :=
  { s with rk := expandStore sc t R s.rk }

/-- `T` loaded from `TK[0..1]` for z = 1 (R81). -/
def loadSingle (tk : Vector Word32 6) : TweakeyState := .single (unpackWord tk 0)

/-- `T` loaded from `TK[0..3]` for z = 2 (R81). -/
def loadDouble (tk : Vector Word32 6) : TweakeyState := .double (unpackWord tk 0) (unpackWord tk 1)

/-- `T` loaded from `TK[0..5]` for z = 3 (R81). -/
def loadTriple (tk : Vector Word32 6) : TweakeyState :=
  .triple (unpackWord tk 0) (unpackWord tk 1) (unpackWord tk 2)

/-- `EXPAND.S R`: `ExpandS(R) = KeySchedule(1, R)`, then the command ends (R91). -/
def execExpandS (R : BitVec 6) (s : State) : Host.Outcome State Fault Refusal :=
  performRounds R (keySchedule lfsrScope (loadSingle s.tk) R) s

/-- `EXPAND.D R`: `ExpandD(R) = KeySchedule(2, R)`, then the command ends (R92). -/
def execExpandD (R : BitVec 6) (s : State) : Host.Outcome State Fault Refusal :=
  performRounds R (keySchedule lfsrScope (loadDouble s.tk) R) s

/-- `EXPAND.T R`: `ExpandT(R) = KeySchedule(3, R)`, then the command ends (R93). -/
def execExpandT (R : BitVec 6) (s : State) : Host.Outcome State Fault Refusal :=
  performRounds R (keySchedule lfsrScope (loadTriple s.tk) R) s

end Sys2Proof.Machine
end

