-- ==== Sys2Proof/Machine/Dispatch.lean ====
section
/-! DEFINITION. `Complete` of each command: `Perform`, then the end of the command (spec/30_encoding.md R68, R69). -/

namespace Sys2Proof.Machine

def exec (i : Instr) (s : State) : Host.Outcome State Fault Refusal :=
  match i with
  | .nop => Sys2Proof.Machine.execNop s
  | .expandS R => Sys2Proof.Machine.execExpandS R s
  | .expandD R => Sys2Proof.Machine.execExpandD R s
  | .expandT R => Sys2Proof.Machine.execExpandT R s
  | .encrypt R => Sys2Proof.Machine.execEncrypt R s
  | .clear => Sys2Proof.Machine.execClear s

end Sys2Proof.Machine
end

