-- ==== Sys2Proof/Machine/Agents.lean ====
section
/-! DEFINITION. The agents' steps and the schedule (spec/10_state.md R10, spec/30_encoding.md R68,
spec/70_reset_and_hazards.md R160, R161), and how an opcode-table word is placed where the engine takes it. -/

namespace Sys2Proof.Machine

/-- The engine's turn: `Complete` of the latched command, enabled exactly when `LCMD ≠ none` (R68). A turn given
to an idle engine passes and changes nothing (log 2). -/
def complete (s : State) : Host.Outcome State Fault Refusal :=
  match s.lcmd with
  | some i => exec i s
  | none => .next s

/-- The reset step: every piece of CORE's state takes its reset value and a running command is discarded (R160).
The schedule still to come and the count of free values drawn are the model's own and go on (logs 1, 4). -/
def resetStep (s : State) : State := { State.reset with events := s.events, draws := s.draws }

/-- One step of the schedule: a host transaction, an engine completion or a reset (R10). -/
def takeTurn (e : Event) (s : State) : Host.Outcome State Fault Refusal :=
  match e with
  | .host t => .next (transact t s)
  | .engine => complete s
  | .reset => .next (resetStep s)
  | .hostInReset _ => .refused .transactionInReset

/-- The next step: the oldest event of the schedule. With none left a latched command completes, and an idle
machine waits (R68, R171; log 2). -/
def nextStep (s : State) : Host.Outcome State Fault Refusal :=
  match s.events with
  | [] => complete s
  | e :: es => takeTurn e { s with events := es }

/-- Whether an event is a transaction of the host's (R10). -/
def isHostEvent : Event → Bool
  | .host _ => true
  | .hostInReset _ => true
  | .engine => false
  | .reset => false

/-- The host has performed its last transaction: none is still to come. Engine turns and resets may be (R171). -/
def hostDone (es : List Event) : Bool := es.all fun e => !isHostEvent e

/-- A schedule in which the engine has the next turn; the empty schedule gives it that already (log 2). -/
def engineNext : List Event → List Event
  | [] => []
  | e :: es => .engine :: e :: es

/-- Place the word of an opcode-table row so that the very next step runs it (log 12): a legal word is latched, as
an accepted `CMD` write leaves it (R67), and the engine has the next turn. A word that `Decode` rejects can never be
latched: it is a `CMD` write to come, which the next step rejects by its error code. -/
def placeWord (nbits w : Nat) (s : State) : State :=
  match decodeTableWord nbits w with
  | some i => { s with lcmd := some i, events := engineNext s.events }
  | none => { s with lcmd := none, events := .host (.write 0x004 (BitVec.ofNat 32 w)) :: s.events }

end Sys2Proof.Machine
end

