-- ==== Sys2Proof/Machine/Step.lean ====
section
/-! DEFINITION. One step of the machine (spec/10_state.md R10). -/

namespace Sys2Proof.Machine

/-- One step: "In any model step exactly one of these acts" (R10). -/
def step (s : State) : Host.Outcome State Fault Refusal := nextStep s

/-- The state in which the next step runs the instruction of an opcode-table row's bits (log 12). -/
def State.withFetchWord (s : State) (nbits w : Nat) : State := placeWord nbits w s

end Sys2Proof.Machine
end

