-- ==== Sys2Proof/Safety.lean ====
section
/-! DEFINITION. What the claims call a sound state, the end of a run (spec/70_reset_and_hazards.md R171) and a schedule the
spec speaks of (R161). -/

namespace Sys2Proof.Machine

/-- `ECODE` is 0 exactly when `ERR` is 0 (R17, R133). -/
abbrev State.EcodeMatchesErr (s : State) : Prop := s.ecode = .noError ↔ s.err = false

/-- The reserved bits of `IRQ_EN` are 0 (R19). -/
abbrev State.IrqEnReservedZero (s : State) : Prop := irqEnMask s.irqEn = s.irqEn

/-- A latched command is legal: it was checked completely when it was issued (R67). -/
abbrev State.LatchedWellFormed (s : State) : Prop := ∀ i ∈ s.lcmd, i.WellFormed

/-- The invariant of CORE: every state from reset on has it. -/
abbrev State.Inv (s : State) : Prop := s.EcodeMatchesErr ∧ s.IrqEnReservedZero ∧ s.LatchedWellFormed

/-- The schedule holds no transaction during reset: "a claim says nothing of a run that has one" (R161). -/
abbrev State.NoTxnInReset (s : State) : Prop := ∀ t : Txn, Event.hostInReset t ∉ s.events

/-- No state of CORE differs: the two states agree on every register and on `LCMD` (R43 to R46). The model's own
fields (the schedule, the reply and the count of draws) are not compared. -/
abbrev State.SameCore (s t : State) : Prop :=
  t.done = s.done ∧ t.err = s.err ∧ t.ecode = s.ecode ∧ t.irqEn = s.irqEn ∧ t.tk = s.tk ∧ t.blkIn = s.blkIn
    ∧ t.blkOut = s.blkOut ∧ t.rk = s.rk ∧ t.lcmd = s.lcmd

/-- The engine has the next step: its turn in the schedule, or no event left (R10, R68; log 2). -/
abbrev State.EngineNext (s : State) : Prop := s.events.head? = some .engine ∨ s.events = []

/-- A run is over when the host has performed its last transaction and `LCMD = none`, whatever engine turns or resets
the schedule still holds (R171). -/
abbrev State.Finished (s : State) : Prop := hostDone s.events = true ∧ s.lcmd = none

end Sys2Proof.Machine
end

