-- ==== Sys2Proof/Certificates/Slice0/Obligations.lean ====
section
/-! DEFINITION. The statements about the machine, from the numbered rules of spec/. Each docstring names the rule or
the sentence of the spec that its statement formalises, and the model's own choices it rests on. What a transaction
returns to the host stands in the field `reply` of the state after it (log 3). -/

open Sys2Proof Sys2Proof.Machine

/-! ## The command word -/

/-- Every legal command decodes from its own word, at every value of its operand (30_encoding.md section 2, the table
of the legal command words). -/
def Obligations.EncodedCommandDecodesToItself : Prop :=
  ∀ i : Instr, i.WellFormed → decode (encode i) = .ok i

/-- Each legal command has one word only (30_encoding.md section 2: "The legal command words are these and no
others"). -/
def Obligations.DecodedWordIsTheCommandsOnlyWord : Prop :=
  ∀ (w : Word32) (i : Instr), decode w = .ok i → encode i = w ∧ i.WellFormed

/-- The table of legal command words in 30_encoding.md section 2. -/
def Obligations.LegalCommandWordsAreTheTable : Prop :=
  ∀ w : Word32,
    (decode w = .ok .nop ↔ w = 0x00000000) ∧
    (decode w = .ok .clear ↔ w = 0x00000003) ∧
    ∀ R : BitVec 6,
      (decode w = .ok (.expandS R) ↔ R.toNat ≤ 48 ∧ w = 0x00000011 + R.setWidth 32 <<< 8) ∧
      (decode w = .ok (.expandD R) ↔ R.toNat ≤ 48 ∧ w = 0x00000021 + R.setWidth 32 <<< 8) ∧
      (decode w = .ok (.expandT R) ↔ R.toNat ≤ 48 ∧ w = 0x00000031 + R.setWidth 32 <<< 8) ∧
      (decode w = .ok (.encrypt R) ↔ R.toNat ≤ 48 ∧ w = 0x00000002 + R.setWidth 32 <<< 8)

/-- The worked encodings at the end of 30_encoding.md section 5, and the two single words of R66. -/
def Obligations.WorkedEncodingsDecode : Prop :=
  decode 0x00002011 = .ok (.expandS 32) ∧ decode 0x00002421 = .ok (.expandD 36) ∧
  decode 0x00002831 = .ok (.expandT 40) ∧ decode 0x00002002 = .ok (.encrypt 32) ∧
  decode 0x00003031 = .ok (.expandT 48) ∧ decode 0x00000002 = .ok (.encrypt 0) ∧
  decode 0x00000000 = .ok .nop ∧ decode 0x00000003 = .ok .clear

/-! ## A step of the machine -/

/-- The engine's step is `exec` of the latched command (R68, R69); the schedule loses the turn it gave (log 1), and
with no event left the engine takes its step too (log 2). -/
def Obligations.EngineTurnRunsLatchedCommand : Prop :=
  ∀ (s : State) (i : Instr), s.lcmd = some i →
    (∀ es : List Event, s.events = .engine :: es → step s = exec i { s with events := es }) ∧
    (s.events = [] → step s = exec i s)

/-- A host's step is its transaction and a reset's step is `resetStep`, each performed on the state without the event
it used up (R10, R52, R160; log 1). -/
def Obligations.HostAndResetTurnsAct : Prop :=
  ∀ (s : State) (es : List Event),
    (∀ t : Txn, s.events = .host t :: es → step s = .next (transact t { s with events := es })) ∧
    (s.events = .reset :: es → step s = .next (resetStep { s with events := es }))

/-- A step runs the decoded instruction: a legal word written to `CMD` while idle is latched, and the engine's next
turn is `exec` of the instruction the word decodes to (R67, R68; the schedule and the reply's field are the model's,
logs 1 and 3). -/
def Obligations.IssuedWordIsExecuted : Prop :=
  ∀ (s : State) (w : Word32) (i : Instr) (es : List Event), decode w = .ok i → s.lcmd = none →
    s.events = .host (.write 0x004 w) :: .engine :: es →
    ∃ u : State, step s = .next u ∧
      u = { s with events := .engine :: es, lcmd := some i, reply := some (.write .okay) } ∧
      step u = exec i { u with events := es }

/-- The placing of an opcode-table word makes the very next step run it (the model's own convention, log 12). -/
def Obligations.PlacedTableWordIsExecuted : Prop :=
  ∀ (s : State) (nbits w : Nat) (i : Instr), decodeTableWord nbits w = some i →
    step (s.withFetchWord nbits w) = exec i { s with lcmd := some i }

/-- The engine's step is not enabled while `LCMD = none` (R68): its turn, or an empty schedule, changes nothing of
CORE (the model's choice that such a turn passes, log 2). Once a run is over it stays over, and only a later reset
changes CORE (R171: the run is over with the host's last transaction and `LCMD = none`). -/
def Obligations.IdleEngineChangesNothing : Prop :=
  (∀ s : State, s.lcmd = none →
    (∀ es : List Event, s.events = .engine :: es → step s = .next { s with events := es }) ∧
    (s.events = [] → step s = .next s)) ∧
  (∀ s t : State, s.Finished → step s = .next t →
    t.Finished ∧ (s.SameCore t ∨ s.events.head? = some .reset)) ∧
  (∀ s : State, s.Finished ↔
    (∀ t : Txn, Event.host t ∉ s.events ∧ Event.hostInReset t ∉ s.events) ∧ s.lcmd = none)

/-- The reset step (R160) from any state: every register, `LCMD` and `engine_phase` at their reset values, `irq` = 0, the
tables unaffected (the constants `ID` among them), and `DONE` not set for a discarded command. -/
def Obligations.ResetStepZeroesEveryRegister : Prop :=
  ∀ s : State,
    statusWord (resetStep s) = 0x00000000 ∧ (resetStep s).irqEn = 0x00000000 ∧
    (∀ w : Fin 6, (resetStep s).tk[w] = 0) ∧
    (∀ k : Fin 2, (resetStep s).blkIn[k] = 0 ∧ (resetStep s).blkOut[k] = 0) ∧
    (∀ e : Fin 48, (resetStep s).rk[e].hi = 0 ∧ (resetStep s).rk[e].lo = 0) ∧
    (resetStep s).lcmd = none ∧ (resetStep s).enginePhase = .idle ∧ (resetStep s).done = false ∧
    (resetStep s).irq = false ∧
    readValue .id (resetStep s) = 0x534B3634 ∧ readValue .cmd (resetStep s) = 0x00000000

/-- The state after reset (10_state.md section 2, the reset column, and R30, R31). -/
def Obligations.ResetStateHasResetValues : Prop :=
  readValue .id State.reset = 0x534B3634 ∧ readValue .cmd State.reset = 0 ∧
  statusWord State.reset = 0x00000000 ∧ State.reset.irqEn = 0x00000000 ∧
  (∀ w : Fin 6, State.reset.tk[w] = 0) ∧
  (∀ k : Fin 2, State.reset.blkIn[k] = 0 ∧ State.reset.blkOut[k] = 0) ∧
  (∀ e : Fin 48, State.reset.rk[e].hi = 0 ∧ State.reset.rk[e].lo = 0) ∧
  State.reset.lcmd = none ∧ State.reset.enginePhase = .idle ∧ State.reset.irq = false

/-- A transaction while `rst` is asserted is refused by name (R161: "A transaction during reset is not modelled"; the
form of the refusal is the model's own, log 10). -/
def Obligations.TransactionInResetIsRefused : Prop :=
  ∀ (s : State) (t : Txn) (es : List Event), s.events = .hostInReset t :: es →
    step s = .refused .transactionInReset

/-! ## Status and interrupt -/

/-- The read value of `STATUS`, its reserved bits, the numbers that `ECODE` holds (the codes of 60_exceptions.md
section 1), and `BUSY` as a view of `LCMD` and `engine_phase` (R14, R18, R31; 10_state.md). -/
def Obligations.StatusReadsItsFields : Prop :=
  (∀ s : State,
    (statusWord s).getLsbD 0 = s.busy ∧ (statusWord s).getLsbD 1 = s.done ∧ (statusWord s).getLsbD 2 = s.err ∧
    (statusWord s).getLsbD 3 = false ∧ (statusWord s).extractLsb 7 4 = s.ecode.code ∧
    (statusWord s).extractLsb 31 8 = 0 ∧
    (s.busy = true ↔ s.enginePhase = .busy) ∧ (s.busy = true ↔ s.lcmd ≠ none)) ∧
  (∀ (s : State) (v : Word32), transact (.write 0x008 v) s = transact (.write 0x008 (v &&& 0x00000006)) s) ∧
  (ErrCode.noError.code = 0x0 ∧ ErrCode.illegalCmd.code = 0x1 ∧ ErrCode.badVariant.code = 0x2 ∧
    ErrCode.badRounds.code = 0x3 ∧ ErrCode.busyCmd.code = 0x4 ∧ ErrCode.busyWrite.code = 0x5) ∧
  statusWord State.reset = 0x00000000 ∧ State.reset.enginePhase = .idle

/-- `DONE` (R15), agent by agent: the engine sets it at completion; a host write of `STATUS` with bit 1 = 1 clears it; no
other transaction, a rejected command's among them, changes it; reset clears it; 0 at reset. -/
def Obligations.DoneIsSetByCompletionAndHeld : Prop :=
  (∀ (i : Instr) (s t : State), exec i s = .next t → t.done = true) ∧
  (∀ (s : State) (v : Word32), (transact (.write 0x008 v) s).done = (s.done && !v.getLsbD 1)) ∧
  (∀ (tx : Txn) (s : State), (∀ v : Word32, tx ≠ .write 0x008 v) → (transact tx s).done = s.done) ∧
  (∀ s : State, (resetStep s).done = false) ∧ State.reset.done = false

/-- `ERR` (R16), agent by agent: set by `raise Error(code)`; it and the recorded `ECODE` stay, over every transaction and
every completion, until the host writes `STATUS` with bit 2 = 1, or reset; 0 at reset. -/
def Obligations.RecordedErrorIsHeldUntilCleared : Prop :=
  (∀ (e : ErrCode) (s : State), (raiseError e s).err = true) ∧
  (∀ (s : State) (v : Word32), (transact (.write 0x008 v) s).err = (s.err && !v.getLsbD 2)) ∧
  (∀ (tx : Txn) (s : State), s.err = true → (∀ v : Word32, tx = .write 0x008 v → v.getLsbD 2 = false) →
    (transact tx s).err = true ∧ (transact tx s).ecode = s.ecode) ∧
  (∀ (i : Instr) (s t : State), exec i s = .next t → t.err = s.err ∧ t.ecode = s.ecode) ∧
  (∀ s : State, (resetStep s).err = false) ∧ State.reset.err = false

/-- `raise Error(code)` (R133): the first error is kept, nothing else changes, and the transaction that raises it
answers OKAY. -/
def Obligations.FirstErrorIsKept : Prop :=
  (∀ (c : ErrCode) (s : State), s.err = false → raiseError c s = { s with err := true, ecode := c }) ∧
  (∀ (c : ErrCode) (s : State), s.err = true → raiseError c s = s) ∧
  (∀ (t : Txn) (s : State), s.err = false → (transact t s).err = true →
    (transact t s).reply = some (.write .okay)) ∧
  (∀ (r : Reg) (v : Word32) (s : State), r = .cmd ∨ isOperand r = true →
    (transact (.write (regOffset r) v) s).reply = some (.write .okay))

/-- Acknowledgement (R143): W1C of `DONE` and `ERR`, `ECODE` zeroed with `ERR`, an error while `ERR` = 1 dropped,
neither bit affecting the other. -/
def Obligations.AcknowledgeClearsStatus : Prop :=
  (∀ (s : State) (v : Word32),
    transact (.write 0x008 v) s =
      { s with
        done := s.done && !v.getLsbD 1
        err := s.err && !v.getLsbD 2
        ecode := if v.getLsbD 2 then .noError else s.ecode
        reply := some (.write .okay) }) ∧
  (∀ (c : ErrCode) (s : State), s.err = true → raiseError c s = s)

/-- `IRQ_EN` (R19): what a write stores, busy or not, the fields, the reserved bits and the reset value. -/
def Obligations.IrqEnStoresTwoBits : Prop :=
  (∀ (s : State) (v : Word32),
    transact (.write 0x00C v) s = { s with irqEn := v &&& 0x00000006, reply := some (.write .okay) }) ∧
  (∀ s : State, transact (.read 0x00C) s = { s with reply := some (.read .okay s.irqEn) }) ∧
  (∀ (s : State) (v : Word32) (i : Nat),
    (transact (.write 0x00C v) s).irqEn.getLsbD i = (v.getLsbD i && (i == 1 || i == 2))) ∧
  (∀ s : State, s.done = true → s.err = false → s.irq = s.irqEn.getLsbD 1) ∧
  (∀ s : State, s.err = true → s.done = false → s.irq = s.irqEn.getLsbD 2) ∧
  State.reset.irqEn = 0x00000000

/-- The interrupt output (R146): the level formula in every state; an asserted `irq` falls over a transaction only where
the host clears an asserting pending bit or its enable bit, over no completion, and at reset. -/
def Obligations.IrqIsLevelOfPendingAndEnabled : Prop :=
  (∀ s : State, s.irq = true ↔
    (s.done = true ∧ s.irqEn.getLsbD 1 = true) ∨ (s.err = true ∧ s.irqEn.getLsbD 2 = true)) ∧
  (∀ (tx : Txn) (s : State), s.irq = true → (transact tx s).irq = false → ∃ v : Word32,
    (tx = .write 0x008 v ∧
      ((s.done = true ∧ s.irqEn.getLsbD 1 = true ∧ v.getLsbD 1 = true) ∨
        (s.err = true ∧ s.irqEn.getLsbD 2 = true ∧ v.getLsbD 2 = true))) ∨
    (tx = .write 0x00C v ∧
      ((s.done = true ∧ s.irqEn.getLsbD 1 = true ∧ v.getLsbD 1 = false) ∨
        (s.err = true ∧ s.irqEn.getLsbD 2 = true ∧ v.getLsbD 2 = false)))) ∧
  (∀ (i : Instr) (s t : State), exec i s = .next t → s.irq = true → t.irq = true) ∧
  (∀ s : State, (resetStep s).irq = false)

/-! ## The register window -/

/-- The register map of R41, offset by offset, and the unmapped ranges. -/
def Obligations.RegisterMapIsTheTable : Prop :=
  regAt 0x000 = some .id ∧ regAt 0x004 = some .cmd ∧ regAt 0x008 = some .status ∧ regAt 0x00C = some .irqEn ∧
  (∀ w : Fin 6, regAt (BitVec.ofNat 10 (0x020 + 4 * w.val)) = some (.tk w)) ∧
  (∀ k : Fin 2, regAt (BitVec.ofNat 10 (0x040 + 4 * k.val)) = some (.blkIn k)) ∧
  (∀ k : Fin 2, regAt (BitVec.ofNat 10 (0x048 + 4 * k.val)) = some (.blkOut k)) ∧
  (∀ e : Fin 48, regAt (BitVec.ofNat 10 (0x100 + 8 * e.val)) = some (.rkHi e)) ∧
  (∀ e : Fin 48, regAt (BitVec.ofNat 10 (0x104 + 8 * e.val)) = some (.rkLo e)) ∧
  (∀ off : Offset, off.extractLsb 1 0 = 0 →
    (0x010 ≤ off.toNat ∧ off.toNat ≤ 0x01F) ∨ (0x038 ≤ off.toNat ∧ off.toNat ≤ 0x03F) ∨
    (0x050 ≤ off.toNat ∧ off.toNat ≤ 0x0FF) ∨ 0x280 ≤ off.toNat → regAt off = none)

/-- A misaligned transaction (R43). -/
def Obligations.MisalignedTransactionIsRefused : Prop :=
  ∀ (s : State) (off : Offset), off.extractLsb 1 0 ≠ 0 →
    transact (.read off) s = { s with reply := some (.read .error 0x00000000) } ∧
    ∀ v : Word32, transact (.write off v) s = { s with reply := some (.write .error) }

/-- An aligned transaction at an unmapped offset (R44, the ranges of R41). -/
def Obligations.UnmappedTransactionIsRefused : Prop :=
  ∀ (s : State) (off : Offset), off.extractLsb 1 0 = 0 →
    (0x010 ≤ off.toNat ∧ off.toNat ≤ 0x01F) ∨ (0x038 ≤ off.toNat ∧ off.toNat ≤ 0x03F) ∨
    (0x050 ≤ off.toNat ∧ off.toNat ≤ 0x0FF) ∨ 0x280 ≤ off.toNat →
    transact (.read off) s = { s with reply := some (.read .error 0x00000000) } ∧
    ∀ v : Word32, transact (.write off v) s = { s with reply := some (.write .error) }

/-- A write to a read-only register, busy or not (R45). -/
def Obligations.ReadOnlyWriteIsRefused : Prop :=
  ∀ (s : State) (off : Offset) (v : Word32), off = 0x000 ∨ off = 0x048 ∨ off = 0x04C →
    transact (.write off v) s = { s with reply := some (.write .error) }

/-- The read value of every register (20_memory.md section 3), busy or not for the registers that R51 does not
name, and idle for `BLK_OUT` and `RK`; a read changes nothing. -/
def Obligations.ReadReturnsRegisterValue : Prop :=
  ∀ s : State,
    transact (.read 0x000) s = { s with reply := some (.read .okay 0x534B3634) } ∧
    transact (.read 0x004) s = { s with reply := some (.read .okay 0x00000000) } ∧
    transact (.read 0x008) s = { s with reply := some (.read .okay (statusWord s)) } ∧
    transact (.read 0x00C) s = { s with reply := some (.read .okay s.irqEn) } ∧
    (∀ w : Fin 6, transact (.read (BitVec.ofNat 10 (0x020 + 4 * w.val))) s =
      { s with reply := some (.read .okay s.tk[w]) }) ∧
    (∀ k : Fin 2, transact (.read (BitVec.ofNat 10 (0x040 + 4 * k.val))) s =
      { s with reply := some (.read .okay s.blkIn[k]) }) ∧
    (s.lcmd = none →
      (∀ k : Fin 2, transact (.read (BitVec.ofNat 10 (0x048 + 4 * k.val))) s =
        { s with reply := some (.read .okay s.blkOut[k]) }) ∧
      (∀ e : Fin 48, transact (.read (BitVec.ofNat 10 (0x100 + 8 * e.val))) s =
        { s with reply := some (.read .okay s.rk[e].hi) }) ∧
      (∀ e : Fin 48, transact (.read (BitVec.ofNat 10 (0x104 + 8 * e.val))) s =
        { s with reply := some (.read .okay s.rk[e].lo) }))

/-- A busy read of `BLK_OUT` or `RK` answers OKAY and a free value, which the statement leaves as `Config.busyRead`
at the count of draws, and the next such read draws another (R51; log 4); it changes no state of CORE. A busy read of
any other register returns its normal value. -/
def Obligations.BusyReadOfResultIsFree : Prop :=
  ∀ s : State, s.lcmd ≠ none →
    (∀ off : Offset, (off = 0x048 ∨ off = 0x04C ∨ ∃ e : Fin 48, off = BitVec.ofNat 10 (0x100 + 8 * e.val) ∨
        off = BitVec.ofNat 10 (0x104 + 8 * e.val)) →
      transact (.read off) s =
        { s with reply := some (.read .okay (Config.busyRead s.draws)), draws := s.draws + 1 }) ∧
    (∀ r : Reg, (r = .id ∨ r = .cmd ∨ r = .status ∨ r = .irqEn ∨ (∃ w : Fin 6, r = .tk w) ∨
        ∃ k : Fin 2, r = .blkIn k) →
      transact (.read (regOffset r)) s = { s with reply := some (.read .okay (readValue r s)) })

/-- A read of any offset, mapped or not, aligned or not, changes no state of CORE (20_memory.md section 3: "A read has
no side effects"). -/
def Obligations.ReadChangesNoCoreState : Prop :=
  ∀ (s : State) (off : Offset), s.SameCore (transact (.read off) s) ∧ (transact (.read off) s).events = s.events

/-- A write to an operand register while idle stores every bit there, so it reads back, and every other register
reads as before (20_memory.md section 3; 10_state.md: "Every bit is writable and reads back as written"). -/
def Obligations.IdleOperandWriteReadsBack : Prop :=
  ∀ (s : State) (r : Reg) (v : Word32), s.lcmd = none → isOperand r = true →
    (transact (.write (regOffset r) v) s).reply = some (.write .okay) ∧
    readValue r (transact (.write (regOffset r) v) s) = v ∧
    (∀ q : Reg, q ≠ r → readValue q (transact (.write (regOffset r) v) s) = readValue q s) ∧
    (transact (.write (regOffset r) v) s).lcmd = none ∧
    (transact (.write (regOffset r) v) s).events = s.events ∧
    (transact (.write (regOffset r) v) s).draws = s.draws

/-- A write to `TK`, `BLK_IN` or `RK` while busy (R137): the register keeps its value, the running command is not
affected, and `BUSY_WRITE` is raised. -/
def Obligations.BusyOperandWriteIsDropped : Prop :=
  ∀ (s : State) (off : Offset) (v : Word32), s.lcmd ≠ none →
    ((∃ w : Fin 6, off = BitVec.ofNat 10 (0x020 + 4 * w.val)) ∨ off = 0x040 ∨ off = 0x044 ∨
      ∃ e : Fin 48, off = BitVec.ofNat 10 (0x100 + 8 * e.val) ∨ off = BitVec.ofNat 10 (0x104 + 8 * e.val)) →
    transact (.write off v) s =
      { s with
        err := true
        ecode := if s.err then s.ecode else .busyWrite
        reply := some (.write .okay) }

/-- `Issue(w)` (R67): busy, rejected or accepted, with response OKAY. -/
def Obligations.IssueAcceptsOrRecordsError : Prop :=
  ∀ (s : State) (w : Word32),
    (s.lcmd ≠ none → transact (.write 0x004 w) s =
      { s with err := true, ecode := if s.err then s.ecode else .busyCmd, reply := some (.write .okay) }) ∧
    (s.lcmd = none → ∀ c : ErrCode, decode w = .error c → transact (.write 0x004 w) s =
      { s with err := true, ecode := if s.err then s.ecode else c, reply := some (.write .okay) }) ∧
    (s.lcmd = none → ∀ i : Instr, decode w = .ok i →
      transact (.write 0x004 w) s = { s with lcmd := some i, reply := some (.write .okay) } ∧
      (transact (.write 0x004 w) s).busy = true)

/-- The causes of the three codes a rejected word records (R134, R135, R136), from the bits of the word. -/
def Obligations.IllegalWordsRaiseTheirCodes : Prop :=
  ∀ (s : State) (w : Word32), s.lcmd = none →
    ((w.extractLsb 31 14 ≠ 0 ∨ w.extractLsb 7 6 ≠ 0 ∨ 4 ≤ (w.extractLsb 3 0).toNat ∨
        ((w.extractLsb 3 0 = 0 ∨ w.extractLsb 3 0 = 3) ∧ (w.extractLsb 5 4 ≠ 0 ∨ w.extractLsb 13 8 ≠ 0)) ∨
        (w.extractLsb 3 0 = 2 ∧ w.extractLsb 5 4 ≠ 0)) →
      transact (.write 0x004 w) s =
        { s with err := true, ecode := if s.err then s.ecode else .illegalCmd, reply := some (.write .okay) }) ∧
    ((w.extractLsb 31 14 = 0 ∧ w.extractLsb 7 6 = 0 ∧ w.extractLsb 3 0 = 1 ∧ w.extractLsb 5 4 = 0) →
      transact (.write 0x004 w) s =
        { s with err := true, ecode := if s.err then s.ecode else .badVariant, reply := some (.write .okay) }) ∧
    ((w.extractLsb 31 14 = 0 ∧ w.extractLsb 7 6 = 0 ∧
        ((w.extractLsb 3 0 = 1 ∧ w.extractLsb 5 4 ≠ 0) ∨ (w.extractLsb 3 0 = 2 ∧ w.extractLsb 5 4 = 0)) ∧
        48 < (w.extractLsb 13 8).toNat) →
      transact (.write 0x004 w) s =
        { s with err := true, ecode := if s.err then s.ecode else .badRounds, reply := some (.write .okay) })

/-- Every write but one to `CMD` is idempotent (20_memory.md, the atomicity rule: "Writes to `TK`, `BLK_IN`, `RK` and
`IRQ_EN` are idempotent. W1C writes to `STATUS` are idempotent."). -/
def Obligations.WritesOtherThanCommandsAreIdempotent : Prop :=
  ∀ (s : State) (off : Offset) (v : Word32), off ≠ 0x004 →
    transact (.write off v) (transact (.write off v) s) = transact (.write off v) s

/-! ## The commands -/

/-- `NOP` completes in every state with no data effect (42_control.md; 30_encoding.md section 3). -/
def Obligations.NopCompletes : Prop :=
  ∀ s : State, exec .nop s = .next { s with lcmd := none, done := true }

/-- `CLEAR` completes in every state: every data register is zero, `IRQ_EN`, `ERR` and `ECODE` survive (42_control.md;
30_encoding.md section 3). -/
def Obligations.ClearCompletes : Prop :=
  ∀ s : State, ∃ t : State, exec .clear s = .next t ∧
    (∀ w : Fin 6, t.tk[w] = 0) ∧ (∀ k : Fin 2, t.blkIn[k] = 0 ∧ t.blkOut[k] = 0) ∧
    (∀ e : Fin 48, t.rk[e].hi = 0 ∧ t.rk[e].lo = 0) ∧
    t = { s with tk := t.tk, blkIn := t.blkIn, blkOut := t.blkOut, rk := t.rk, lcmd := none, done := true }

/-- `EXPAND.S R` completes for every legal `R` (40_key_schedule.md section 2): cell by cell, round key `e` is the active
cells of word 0 after `e` permutations with the constants of round `e` added; nothing else changes. -/
def Obligations.ExpandSingleCompletes : Prop :=
  ∀ (R : BitVec 6) (s : State), R.toNat ≤ 48 →
    ∃ t : State, exec (.expandS R) s = .next t ∧
      (∀ e : Fin 48, e.val < R.toNat → ∀ i : Fin 16,
        nib t.rk[e].word i =
          (if i.val < 8 then (permuteWord^[e.val] (unpack (s.tk[0] ++ s.tk[1])))[i] else 0) ^^^
          (if i = 0 then rcTable[e].extractLsb' 0 4 else if i = 4 then rcTable[e].extractLsb' 4 4
            else if i = 8 then 0x2 else 0)) ∧
      (∀ e : Fin 48, R.toNat ≤ e.val → t.rk[e] = s.rk[e]) ∧
      t = { s with rk := t.rk, lcmd := none, done := true }

/-- `EXPAND.D R` completes for every legal `R` (40_key_schedule.md section 2): word 1 takes `LFSR2` in every cell after
every permutation. -/
def Obligations.ExpandDoubleCompletes : Prop :=
  ∀ (R : BitVec 6) (s : State), R.toNat ≤ 48 →
    ∃ t : State, exec (.expandD R) s = .next t ∧
      (∀ e : Fin 48, e.val < R.toNat → ∀ i : Fin 16,
        nib t.rk[e].word i =
          (if i.val < 8 then (permuteWord^[e.val] (unpack (s.tk[0] ++ s.tk[1])))[i] ^^^
            ((fun w => (permuteWord w).map lfsr2)^[e.val] (unpack (s.tk[2] ++ s.tk[3])))[i] else 0) ^^^
          (if i = 0 then rcTable[e].extractLsb' 0 4 else if i = 4 then rcTable[e].extractLsb' 4 4
            else if i = 8 then 0x2 else 0)) ∧
      (∀ e : Fin 48, R.toNat ≤ e.val → t.rk[e] = s.rk[e]) ∧
      t = { s with rk := t.rk, lcmd := none, done := true }

/-- `EXPAND.T R` completes for every legal `R` (40_key_schedule.md section 2): word 1 takes `LFSR2` and word 2 `LFSR3` in
every cell after every permutation. -/
def Obligations.ExpandTripleCompletes : Prop :=
  ∀ (R : BitVec 6) (s : State), R.toNat ≤ 48 →
    ∃ t : State, exec (.expandT R) s = .next t ∧
      (∀ e : Fin 48, e.val < R.toNat → ∀ i : Fin 16,
        nib t.rk[e].word i =
          (if i.val < 8 then (permuteWord^[e.val] (unpack (s.tk[0] ++ s.tk[1])))[i] ^^^
            ((fun w => (permuteWord w).map lfsr2)^[e.val] (unpack (s.tk[2] ++ s.tk[3])))[i] ^^^
            ((fun w => (permuteWord w).map lfsr3)^[e.val] (unpack (s.tk[4] ++ s.tk[5])))[i] else 0) ^^^
          (if i = 0 then rcTable[e].extractLsb' 0 4 else if i = 4 then rcTable[e].extractLsb' 4 4
            else if i = 8 then 0x2 else 0)) ∧
      (∀ e : Fin 48, R.toNat ≤ e.val → t.rk[e] = s.rk[e]) ∧
      t = { s with rk := t.rk, lcmd := none, done := true }

/-- `ENCRYPT R` completes for every legal `R` (41_block_transform.md): the cipher state runs through the rounds 0 to
`R-1` in order, each of SubCells, AddRoundKey, ShiftRows and MixColumns, from the cells of `BLK_IN` to those of
`BLK_OUT`; nothing else changes. -/
def Obligations.EncryptCompletes : Prop :=
  ∀ (R : BitVec 6) (s : State) (legal : R.toNat ≤ 48),
    ∃ (t : State) (cells : Nat → Nib16), exec (.encrypt R) s = .next t ∧
      (∀ i : Fin 16, (cells 0)[i] = nib (s.blkIn[0] ++ s.blkIn[1]) i) ∧
      (∀ (r : Nat) (before : r < R.toNat),
        cells (r + 1) = mixColumns (shiftRows (addRoundKey
          (unpack (s.rk[r].hi ++ s.rk[r].lo)) (subCells (cells r))))) ∧
      (∀ i : Fin 16, nib (t.blkOut[0] ++ t.blkOut[1]) i = (cells R.toNat)[i]) ∧
      t = { s with blkOut := t.blkOut, lcmd := none, done := true }

/-- With `R = 0` EXPAND writes no entry and still sets `DONE` (R89). -/
def Obligations.ExpandZeroRoundsWritesNothing : Prop :=
  ∀ s : State,
    exec (.expandS 0) s = .next { s with lcmd := none, done := true } ∧
    exec (.expandD 0) s = .next { s with lcmd := none, done := true } ∧
    exec (.expandT 0) s = .next { s with lcmd := none, done := true }

/-- With `R = 0` ENCRYPT copies the block (41_block_transform.md section 1: "With `R = 0` no round runs and
`BLK_OUT = BLK_IN`"). -/
def Obligations.EncryptZeroRoundsCopiesTheBlock : Prop :=
  ∀ s : State, exec (.encrypt 0) s = .next { s with blkOut := s.blkIn, lcmd := none, done := true }

/-- Write-back (R90): the entries 0 to `R-1` receive all 16 nibbles of their round keys, with cell 8 = 0x2 and cells 9
to 15 = 0 whatever they held; the others and `TK` keep their values. -/
def Obligations.ExpandWritesBackWholeEntries : Prop :=
  ∀ (R : BitVec 6) (s t : State),
    (exec (.expandS R) s = .next t → ∀ e : Fin 48, e.val < R.toNat →
      ∀ i : Fin 16, nib t.rk[e].word i = (roundKey .all16 (loadSingle s.tk) e)[i]) ∧
    (exec (.expandD R) s = .next t → ∀ e : Fin 48, e.val < R.toNat →
      ∀ i : Fin 16, nib t.rk[e].word i = (roundKey .all16 (loadDouble s.tk) e)[i]) ∧
    (exec (.expandT R) s = .next t → ∀ e : Fin 48, e.val < R.toNat →
      ∀ i : Fin 16, nib t.rk[e].word i = (roundKey .all16 (loadTriple s.tk) e)[i]) ∧
    (exec (.expandS R) s = .next t ∨ exec (.expandD R) s = .next t ∨ exec (.expandT R) s = .next t →
      (∀ e : Fin 48, e.val < R.toNat → ∀ i : Fin 16,
        (i.val = 8 → nib t.rk[e].word i = 0x2) ∧ (9 ≤ i.val → nib t.rk[e].word i = 0)) ∧
      (∀ e : Fin 48, R.toNat ≤ e.val → t.rk[e] = s.rk[e]) ∧ t.tk = s.tk)

/-- A latched `ROUNDS` above 48, which the decoder never delivers, is refused by name and computes nothing (the
model's own stop, log 13; 93_implementation_defined.md A1: "The model never computes a value for it"). -/
def Obligations.RoundsAboveTableAreRefused : Prop :=
  ∀ (R : BitVec 6) (s : State), 48 < R.toNat →
    exec (.expandS R) s = .refused .roundsAboveTable ∧ exec (.expandD R) s = .refused .roundsAboveTable ∧
    exec (.expandT R) s = .refused .roundsAboveTable ∧ exec (.encrypt R) s = .refused .roundsAboveTable

/-- The frame of all six commands: what a completion leaves unchanged (40_key_schedule.md, 41_block_transform.md and
42_control.md, "Flags written" and the write sets). -/
def Obligations.CommandsChangeOnlyTheirResults : Prop :=
  ∀ (i : Instr) (s t : State), exec i s = .next t →
    t.irqEn = s.irqEn ∧ t.err = s.err ∧ t.ecode = s.ecode ∧ t.events = s.events ∧ t.reply = s.reply ∧
    t.draws = s.draws ∧ t.lcmd = none ∧ t.done = true ∧
    (i ≠ .clear → t.tk = s.tk ∧ t.blkIn = s.blkIn) ∧
    (i ≠ .clear → (∀ R : BitVec 6, i ≠ .encrypt R) → t.blkOut = s.blkOut) ∧
    (i ≠ .clear → (∀ R : BitVec 6, i ≠ .expandS R ∧ i ≠ .expandD R ∧ i ≠ .expandT R) → t.rk = s.rk) ∧
    (∀ e : Fin 48, i ≠ .clear → i.rounds.toNat ≤ e.val → t.rk[e] = s.rk[e])

/-! ## The cipher's operations -/

/-- `LFSR2` and `LFSR3` by their bits and their full tables (R85, R86). -/
def Obligations.LfsrsAreTheirTables : Prop :=
  (∀ x : Nibble, (lfsr2 x).getLsbD 3 = x.getLsbD 2 ∧ (lfsr2 x).getLsbD 2 = x.getLsbD 1 ∧
    (lfsr2 x).getLsbD 1 = x.getLsbD 0 ∧ (lfsr2 x).getLsbD 0 = (x.getLsbD 3 ^^ x.getLsbD 2)) ∧
  (∀ x : Nibble, (lfsr3 x).getLsbD 3 = (x.getLsbD 3 ^^ x.getLsbD 0) ∧ (lfsr3 x).getLsbD 2 = x.getLsbD 3 ∧
    (lfsr3 x).getLsbD 1 = x.getLsbD 2 ∧ (lfsr3 x).getLsbD 0 = x.getLsbD 1) ∧
  (List.finRange 16).map (fun x => lfsr2 (BitVec.ofFin x)) =
    [0x0, 0x2, 0x4, 0x6, 0x9, 0xB, 0xD, 0xF, 0x1, 0x3, 0x5, 0x7, 0x8, 0xA, 0xC, 0xE] ∧
  (List.finRange 16).map (fun x => lfsr3 (BitVec.ofFin x)) =
    [0x0, 0x8, 0x1, 0x9, 0x2, 0xA, 0x3, 0xB, 0xC, 0x4, 0xD, 0x5, 0xE, 0x6, 0xF, 0x7]

/-- One round of the key schedule on the tweakey state: extraction (R82), constants (R83), permutation (R84), and the
LFSR update of words 1 and 2 in every cell, with the cross-check scope ROWS01 beside it (R87). -/
def Obligations.KeyScheduleRoundSteps : Prop :=
  (∀ (t0 t1 t2 : Nib16) (i : Fin 16),
    (extractActive (.single t0))[i] = (if i.val < 8 then t0[i] else 0) ∧
    (extractActive (.double t0 t1))[i] = (if i.val < 8 then t0[i] ^^^ t1[i] else 0) ∧
    (extractActive (.triple t0 t1 t2))[i] = (if i.val < 8 then t0[i] ^^^ t1[i] ^^^ t2[i] else 0)) ∧
  (∀ (r : Fin 48) (k : Nib16) (i : Fin 16),
    (injectConstants r k)[i] =
      if i = 0 then k[i] ^^^ rcTable[r].extractLsb' 0 4 else if i = 4 then k[i] ^^^ rcTable[r].extractLsb' 4 4
      else if i = 8 then k[i] ^^^ 0x2 else k[i]) ∧
  (∀ (w : Nib16) (p : Fin 16), (permuteWord w)[p] = w[pt[p]]) ∧
  (∀ t0 t1 t2 : Nib16,
    (∃ u0 : Nib16, nextTweakey lfsrScope (.single t0) = .single u0 ∧ u0 = permuteWord t0) ∧
    (∃ u0 u1 : Nib16, nextTweakey lfsrScope (.double t0 t1) = .double u0 u1 ∧ u0 = permuteWord t0 ∧
      ∀ i : Fin 16, u1[i] = lfsr2 (permuteWord t1)[i]) ∧
    (∃ u0 u1 u2 : Nib16, nextTweakey lfsrScope (.triple t0 t1 t2) = .triple u0 u1 u2 ∧ u0 = permuteWord t0 ∧
      (∀ i : Fin 16, u1[i] = lfsr2 (permuteWord t1)[i]) ∧ ∀ i : Fin 16, u2[i] = lfsr3 (permuteWord t2)[i])) ∧
  (∀ (f : Nibble → Nibble) (w : Nib16) (i : Fin 16),
    (updateWord .rows01 f w)[i] = if i.val < 8 then f w[i] else w[i])

/-- The four steps of a round of the block transform, cell by cell (R104, R105, R106, R107). -/
def Obligations.BlockRoundSteps : Prop :=
  (∀ (st : Nib16) (i : Fin 16), (subCells st)[i] = sbox st[i]) ∧
  (∀ (k st : Nib16) (i : Fin 16), (addRoundKey k st)[i] = st[i] ^^^ k[i]) ∧
  (∀ (st : Nib16) (row col : Fin 4),
    (shiftRows st)[4 * row.val + col.val] = st[4 * row.val + (col.val + 4 - row.val) % 4] ∧
    (shiftRows st)[4 * row.val + col.val] = st[sr[4 * row.val + col.val]]) ∧
  (∀ (st : Nib16) (col : Fin 4),
    (mixColumns st)[12 + col.val] = st[col.val] ^^^ st[8 + col.val] ∧
    (mixColumns st)[8 + col.val] = st[4 + col.val] ^^^ st[8 + col.val] ∧
    (mixColumns st)[4 + col.val] = st[col.val] ∧
    (mixColumns st)[col.val] = st[12 + col.val] ^^^ (mixColumns st)[12 + col.val])

/-- The three tables the spec supplies from general knowledge (10_state.md section 4; the model's log 8): the 16 entries
of `SBOX` and of `PT`; `SBOX` is a permutation with `F` as its one fixed point and no involution; `PT` is one 16-cycle,
so its 16th power is the identity on words and no lower power is; and `RC` is the output of the 6-bit register of
10_state.md. -/
def Obligations.TablesHaveTheirShape : Prop :=
  (List.finRange 16).map (fun x => sbox (BitVec.ofFin x)) =
    [0xC, 0x6, 0x9, 0x0, 0x1, 0xA, 0x2, 0xB, 0x3, 0x8, 0x5, 0xD, 0x4, 0xE, 0x7, 0xF] ∧
  (∀ x y : Nibble, sbox x = sbox y → x = y) ∧ (∀ x : Nibble, sbox x = x ↔ x = 0xF) ∧ sbox (sbox 0x0) ≠ 0x0 ∧
  pt.toList = [9, 15, 8, 13, 10, 14, 12, 11, 0, 1, 2, 3, 4, 5, 6, 7] ∧
  (∀ w : Nib16, permuteWord^[16] w = w) ∧
  (∀ n : Nat, 0 < n → n < 16 → ∃ w : Nib16, permuteWord^[n] w ≠ w) ∧
  rcTable[0] = 0x01 ∧
  (∀ r : Fin 47, rcTable[r.val + 1] =
    (((rcTable[r.val] <<< 1) &&& 0x3F) |||
      (((rcTable[r.val] >>> 5) ^^^ (rcTable[r.val] >>> 4) ^^^ 0x01) &&& 0x01)))

/-- `LFSR2` and `LFSR3` are inverse bijections with period 15 on the nonzero nibbles (the spec's own inference,
40_key_schedule.md section 3). -/
def Obligations.LfsrsAreInverse : Prop :=
  (∀ x : Nibble, lfsr3 (lfsr2 x) = x ∧ lfsr2 (lfsr3 x) = x) ∧ lfsr2 0 = 0 ∧ lfsr3 0 = 0 ∧
  (∀ x : Nibble, ∀ n : Fin 16, x ≠ 0 → (lfsr2^[n.val] x = x ↔ n.val = 0 ∨ n.val = 15))

/-- EXPAND reads `TK[0]` to `TK[2z-1]` and no other register: two states that agree on those registers get the same
round keys, whatever else they hold (40_key_schedule.md section 1). -/
def Obligations.RoundKeysDependOnlyOnTheirTweakeyWords : Prop :=
  ∀ (R : BitVec 6) (s s' t t' : State) (e : Fin 48), e.val < R.toNat → s.tk[0] = s'.tk[0] → s.tk[1] = s'.tk[1] →
    (exec (.expandS R) s = .next t → exec (.expandS R) s' = .next t' → t.rk[e] = t'.rk[e]) ∧
    (s.tk[2] = s'.tk[2] → s.tk[3] = s'.tk[3] →
      (exec (.expandD R) s = .next t → exec (.expandD R) s' = .next t' → t.rk[e] = t'.rk[e]) ∧
      (s.tk[4] = s'.tk[4] → s.tk[5] = s'.tk[5] →
        exec (.expandT R) s = .next t → exec (.expandT R) s' = .next t' → t.rk[e] = t'.rk[e]))

/-- Round key 0 of the Single variant is the raw tweakey nibbles with the first constants added (the spec's own
inference, 40_key_schedule.md section 3; it rests on `RC[0]` = 0x01, log 8). -/
def Obligations.SingleRoundKeyZeroIsTheTweakey : Prop :=
  ∀ (R : BitVec 6) (s t : State), 0 < R.toNat → exec (.expandS R) s = .next t →
    t.rk[0].hi = s.tk[0] ^^^ 0x10000000 ∧ t.rk[0].lo = 0x20000000

/-- Each round key is an affine function of the tweakey: two pairs of tweakeys with the same difference give round
keys with the same difference (the spec's own inference, 40_key_schedule.md section 3). -/
def Obligations.RoundKeysAreAffineInTheTweakey : Prop :=
  ∀ (i : Instr) (R : BitVec 6) (a b c d a' b' c' d' : State), i = .expandS R ∨ i = .expandD R ∨ i = .expandT R →
    (∀ w : Fin 6, a.tk[w] ^^^ b.tk[w] = c.tk[w] ^^^ d.tk[w]) →
    exec i a = .next a' → exec i b = .next b' → exec i c = .next c' → exec i d = .next d' →
    ∀ e : Fin 48, e.val < R.toNat →
      a'.rk[e].hi ^^^ b'.rk[e].hi = c'.rk[e].hi ^^^ d'.rk[e].hi ∧
      a'.rk[e].lo ^^^ b'.rk[e].lo = c'.rk[e].lo ^^^ d'.rk[e].lo

/-- An all-zero tweakey gives the same round keys for the three variants (the spec's own inference,
40_key_schedule.md section 3). -/
def Obligations.ZeroTweakeyRoundKeysAgree : Prop :=
  ∀ (R : BitVec 6) (s : State), R.toNat ≤ 48 → (∀ w : Fin 6, s.tk[w] = 0) →
    exec (.expandD R) s = exec (.expandS R) s ∧ exec (.expandT R) s = exec (.expandS R) s

/-- The block transform reads only `BLK_IN` and `RK[0..R-1]` (the spec's own inference, 41_block_transform.md
section 3: "no hidden state"). -/
def Obligations.EncryptDependsOnlyOnBlockAndKeys : Prop :=
  ∀ (R : BitVec 6) (s s' t t' : State), s.blkIn = s'.blkIn →
    (∀ e : Fin 48, e.val < R.toNat → s.rk[e] = s'.rk[e]) →
    exec (.encrypt R) s = .next t → exec (.encrypt R) s' = .next t' → t.blkOut = t'.blkOut

/-- For fixed round keys the block transform is a bijection on blocks: two blocks with the same output are equal, and
every block is an output (the spec's own inference, 41_block_transform.md section 3; it rests on the S-box being a
permutation, log 8). -/
def Obligations.EncryptIsABijectionOnBlocks : Prop :=
  ∀ (R : BitVec 6) (s : State), R.toNat ≤ 48 →
    ∀ out : Vector Word32 2, ∃! blk : Vector Word32 2, ∃ t : State,
      exec (.encrypt R) { s with blkIn := blk } = .next t ∧ t.blkOut = out

/-! ## The whole machine -/

/-- The invariant holds in the reset state: `ECODE` is 0 exactly when `ERR` is 0, the reserved bits of `IRQ_EN` are 0,
and a latched command is legal. -/
def Obligations.ResetMeetsTheInvariant : Prop := State.reset.Inv

/-- Every step of every agent keeps the invariant (10_state.md: `ECODE` "is 0 whenever `STATUS.ERR` is 0", the reserved
bits of `IRQ_EN`; 30_encoding.md section 3: "an accepted command cannot fail later"). -/
def Obligations.EveryStepKeepsTheInvariant : Prop :=
  ∀ s t : State, s.Inv → step s = .next t → t.Inv

/-- Only a completion of ENCRYPT, a completion of CLEAR and reset write `BLK_OUT` (10_state.md section 2). -/
def Obligations.OnlyEncryptClearAndResetWriteBlkOut : Prop :=
  ∀ s t : State, step s = .next t → t.blkOut ≠ s.blkOut →
    s.events.head? = some .reset ∨
    (s.EngineNext ∧ (s.lcmd = some .clear ∨ ∃ R : BitVec 6, s.lcmd = some (.encrypt R)))

/-- No command except CLEAR modifies `TK` and `BLK_IN`: each changes by a host write to one of its own words while idle,
a completion of CLEAR or reset only; `RK` by these and a completion of EXPAND (10_state.md section 2). -/
def Obligations.OperandRegistersHaveTheirWriters : Prop :=
  ∀ s t : State, step s = .next t →
    (t.tk ≠ s.tk →
      s.events.head? = some .reset ∨ (s.EngineNext ∧ s.lcmd = some .clear) ∨
      (s.lcmd = none ∧ ∃ off v w, regAt off = some (.tk w) ∧ s.events.head? = some (.host (.write off v)))) ∧
    (t.blkIn ≠ s.blkIn →
      s.events.head? = some .reset ∨ (s.EngineNext ∧ s.lcmd = some .clear) ∨
      (s.lcmd = none ∧ ∃ off v k, regAt off = some (.blkIn k) ∧ s.events.head? = some (.host (.write off v)))) ∧
    (t.rk ≠ s.rk →
      s.events.head? = some .reset ∨ (s.EngineNext ∧ (s.lcmd = some .clear ∨
        ∃ R : BitVec 6, s.lcmd = some (.expandS R) ∨ s.lcmd = some (.expandD R) ∨ s.lcmd = some (.expandT R))) ∨
      (s.lcmd = none ∧ ∃ off v e, (regAt off = some (.rkHi e) ∨ regAt off = some (.rkLo e)) ∧
        s.events.head? = some (.host (.write off v))))

/-- The operands of a command at its completion are those at its acceptance: any number of host transactions while
busy leave the latched command, `TK`, `BLK_IN`, `BLK_OUT` and `RK` as they are (the spec's own inference,
20_memory.md section 5). -/
def Obligations.OperandsHoldWhileBusy : Prop :=
  ∀ (txns : List Txn) (es : List Event) (s t : State), s.lcmd ≠ none → s.events = txns.map .host ++ es →
    core.run txns.length s = .next t →
    t.lcmd = s.lcmd ∧ t.tk = s.tk ∧ t.blkIn = s.blkIn ∧ t.blkOut = s.blkOut ∧ t.rk = s.rk ∧ t.events = es

/-- An accepted command completes: a busy machine is idle with `DONE` = 1 in some later state, within one step more
than the events of its schedule, unless the schedule resets it (30_encoding.md section 3; that the engine acts when
no event is left is the model's choice, log 2). -/
def Obligations.AcceptedCommandCompletes : Prop :=
  ∀ s : State, s.Inv → s.lcmd ≠ none → s.NoTxnInReset → Event.reset ∉ s.events →
    ∃ (k : Nat) (t : State), k ≤ s.events.length + 1 ∧ core.run k s = .next t ∧ t.lcmd = none ∧ t.done = true

/-- CORE never stops: from every state that meets the invariant, under every schedule without a transaction during
reset, every number of steps answers a next state (60_exceptions.md section 1: "CORE raises no traps"). That a step on
an idle engine's turn, and one after the schedule is used up, still answers a next state is the model's choice
(log 2). -/
def Obligations.EveryScheduleRunsOn : Prop :=
  ∀ (s : State), s.Inv → s.NoTxnInReset → ∀ k : Nat, ∃ t : State, core.run k s = .next t ∧ t.Inv
end

