-- ==== Sys2Proof/Laws/State.lean ====
section
/-! SUPPORT. One lemma per field per named update of the state: what each operation leaves as it was and what it
sets. -/

namespace Sys2Proof.Machine

@[simp] theorem respond_done (r : Reply) (s : State) : (respond r s).done = s.done := rfl
@[simp] theorem respond_err (r : Reply) (s : State) : (respond r s).err = s.err := rfl
@[simp] theorem respond_ecode (r : Reply) (s : State) : (respond r s).ecode = s.ecode := rfl
@[simp] theorem respond_irqEn (r : Reply) (s : State) : (respond r s).irqEn = s.irqEn := rfl
@[simp] theorem respond_tk (r : Reply) (s : State) : (respond r s).tk = s.tk := rfl
@[simp] theorem respond_blkIn (r : Reply) (s : State) : (respond r s).blkIn = s.blkIn := rfl
@[simp] theorem respond_blkOut (r : Reply) (s : State) : (respond r s).blkOut = s.blkOut := rfl
@[simp] theorem respond_rk (r : Reply) (s : State) : (respond r s).rk = s.rk := rfl
@[simp] theorem respond_lcmd (r : Reply) (s : State) : (respond r s).lcmd = s.lcmd := rfl
@[simp] theorem respond_events (r : Reply) (s : State) : (respond r s).events = s.events := rfl
@[simp] theorem respond_draws (r : Reply) (s : State) : (respond r s).draws = s.draws := rfl
@[simp] theorem respond_reply (r : Reply) (s : State) : (respond r s).reply = some r := rfl

@[simp] theorem finishCommand_err (s : State) : (finishCommand s).err = s.err := rfl
@[simp] theorem finishCommand_ecode (s : State) : (finishCommand s).ecode = s.ecode := rfl
@[simp] theorem finishCommand_irqEn (s : State) : (finishCommand s).irqEn = s.irqEn := rfl
@[simp] theorem finishCommand_tk (s : State) : (finishCommand s).tk = s.tk := rfl
@[simp] theorem finishCommand_blkIn (s : State) : (finishCommand s).blkIn = s.blkIn := rfl
@[simp] theorem finishCommand_blkOut (s : State) : (finishCommand s).blkOut = s.blkOut := rfl
@[simp] theorem finishCommand_rk (s : State) : (finishCommand s).rk = s.rk := rfl
@[simp] theorem finishCommand_events (s : State) : (finishCommand s).events = s.events := rfl
@[simp] theorem finishCommand_reply (s : State) : (finishCommand s).reply = s.reply := rfl
@[simp] theorem finishCommand_draws (s : State) : (finishCommand s).draws = s.draws := rfl
@[simp] theorem finishCommand_lcmd (s : State) : (finishCommand s).lcmd = none := rfl
@[simp] theorem finishCommand_done (s : State) : (finishCommand s).done = true := rfl

@[simp] theorem acknowledge_irqEn (v : Word32) (s : State) : (acknowledge v s).irqEn = s.irqEn := rfl
@[simp] theorem acknowledge_tk (v : Word32) (s : State) : (acknowledge v s).tk = s.tk := rfl
@[simp] theorem acknowledge_blkIn (v : Word32) (s : State) : (acknowledge v s).blkIn = s.blkIn := rfl
@[simp] theorem acknowledge_blkOut (v : Word32) (s : State) : (acknowledge v s).blkOut = s.blkOut := rfl
@[simp] theorem acknowledge_rk (v : Word32) (s : State) : (acknowledge v s).rk = s.rk := rfl
@[simp] theorem acknowledge_lcmd (v : Word32) (s : State) : (acknowledge v s).lcmd = s.lcmd := rfl
@[simp] theorem acknowledge_events (v : Word32) (s : State) : (acknowledge v s).events = s.events := rfl
@[simp] theorem acknowledge_reply (v : Word32) (s : State) : (acknowledge v s).reply = s.reply := rfl
@[simp] theorem acknowledge_draws (v : Word32) (s : State) : (acknowledge v s).draws = s.draws := rfl
@[simp] theorem acknowledge_done (v : Word32) (s : State) :
    (acknowledge v s).done = if v.getLsbD 1 then false else s.done := rfl
@[simp] theorem acknowledge_err (v : Word32) (s : State) :
    (acknowledge v s).err = if v.getLsbD 2 then false else s.err := rfl
@[simp] theorem acknowledge_ecode (v : Word32) (s : State) :
    (acknowledge v s).ecode = if v.getLsbD 2 then .noError else s.ecode := rfl

@[simp] theorem clearData_done (s : State) : (clearData s).done = s.done := rfl
@[simp] theorem clearData_err (s : State) : (clearData s).err = s.err := rfl
@[simp] theorem clearData_ecode (s : State) : (clearData s).ecode = s.ecode := rfl
@[simp] theorem clearData_irqEn (s : State) : (clearData s).irqEn = s.irqEn := rfl
@[simp] theorem clearData_lcmd (s : State) : (clearData s).lcmd = s.lcmd := rfl
@[simp] theorem clearData_events (s : State) : (clearData s).events = s.events := rfl
@[simp] theorem clearData_reply (s : State) : (clearData s).reply = s.reply := rfl
@[simp] theorem clearData_draws (s : State) : (clearData s).draws = s.draws := rfl
@[simp] theorem clearData_tk (s : State) : (clearData s).tk = Vector.replicate 6 0 := rfl
@[simp] theorem clearData_blkIn (s : State) : (clearData s).blkIn = Vector.replicate 2 0 := rfl
@[simp] theorem clearData_blkOut (s : State) : (clearData s).blkOut = Vector.replicate 2 0 := rfl
@[simp] theorem clearData_rk (s : State) : (clearData s).rk = Vector.replicate 48 ⟨0, 0⟩ := rfl

@[simp] theorem keySchedule_done (sc : LfsrScope) (t : TweakeyState) (R : BitVec 6) (s : State) :
    (keySchedule sc t R s).done = s.done := rfl
@[simp] theorem keySchedule_err (sc : LfsrScope) (t : TweakeyState) (R : BitVec 6) (s : State) :
    (keySchedule sc t R s).err = s.err := rfl
@[simp] theorem keySchedule_ecode (sc : LfsrScope) (t : TweakeyState) (R : BitVec 6) (s : State) :
    (keySchedule sc t R s).ecode = s.ecode := rfl
@[simp] theorem keySchedule_irqEn (sc : LfsrScope) (t : TweakeyState) (R : BitVec 6) (s : State) :
    (keySchedule sc t R s).irqEn = s.irqEn := rfl
@[simp] theorem keySchedule_tk (sc : LfsrScope) (t : TweakeyState) (R : BitVec 6) (s : State) :
    (keySchedule sc t R s).tk = s.tk := rfl
@[simp] theorem keySchedule_blkIn (sc : LfsrScope) (t : TweakeyState) (R : BitVec 6) (s : State) :
    (keySchedule sc t R s).blkIn = s.blkIn := rfl
@[simp] theorem keySchedule_blkOut (sc : LfsrScope) (t : TweakeyState) (R : BitVec 6) (s : State) :
    (keySchedule sc t R s).blkOut = s.blkOut := rfl
@[simp] theorem keySchedule_lcmd (sc : LfsrScope) (t : TweakeyState) (R : BitVec 6) (s : State) :
    (keySchedule sc t R s).lcmd = s.lcmd := rfl
@[simp] theorem keySchedule_events (sc : LfsrScope) (t : TweakeyState) (R : BitVec 6) (s : State) :
    (keySchedule sc t R s).events = s.events := rfl
@[simp] theorem keySchedule_reply (sc : LfsrScope) (t : TweakeyState) (R : BitVec 6) (s : State) :
    (keySchedule sc t R s).reply = s.reply := rfl
@[simp] theorem keySchedule_draws (sc : LfsrScope) (t : TweakeyState) (R : BitVec 6) (s : State) :
    (keySchedule sc t R s).draws = s.draws := rfl

@[simp] theorem keySchedule_rk (sc : LfsrScope) (t : TweakeyState) (R : BitVec 6) (s : State) :
    (keySchedule sc t R s).rk = expandStore sc t R s.rk := rfl

@[simp] theorem blockTransform_done (R : BitVec 6) (s : State) : (blockTransform R s).done = s.done := rfl
@[simp] theorem blockTransform_err (R : BitVec 6) (s : State) : (blockTransform R s).err = s.err := rfl
@[simp] theorem blockTransform_ecode (R : BitVec 6) (s : State) : (blockTransform R s).ecode = s.ecode := rfl
@[simp] theorem blockTransform_irqEn (R : BitVec 6) (s : State) : (blockTransform R s).irqEn = s.irqEn := rfl
@[simp] theorem blockTransform_tk (R : BitVec 6) (s : State) : (blockTransform R s).tk = s.tk := rfl
@[simp] theorem blockTransform_blkIn (R : BitVec 6) (s : State) : (blockTransform R s).blkIn = s.blkIn := rfl
@[simp] theorem blockTransform_rk (R : BitVec 6) (s : State) : (blockTransform R s).rk = s.rk := rfl
@[simp] theorem blockTransform_lcmd (R : BitVec 6) (s : State) : (blockTransform R s).lcmd = s.lcmd := rfl
@[simp] theorem blockTransform_events (R : BitVec 6) (s : State) : (blockTransform R s).events = s.events := rfl
@[simp] theorem blockTransform_reply (R : BitVec 6) (s : State) : (blockTransform R s).reply = s.reply := rfl
@[simp] theorem blockTransform_draws (R : BitVec 6) (s : State) : (blockTransform R s).draws = s.draws := rfl

@[simp] theorem blockTransform_blkOut (R : BitVec 6) (s : State) :
    (blockTransform R s).blkOut = packBlock (encryptRounds s.rk R.toNat (unpack (blockWord s.blkIn))) := rfl

@[simp] theorem raiseError_done (c : ErrCode) (s : State) :
    (raiseError c s).done = s.done := by unfold raiseError; split <;> rfl
@[simp] theorem raiseError_irqEn (c : ErrCode) (s : State) :
    (raiseError c s).irqEn = s.irqEn := by unfold raiseError; split <;> rfl
@[simp] theorem raiseError_tk (c : ErrCode) (s : State) :
    (raiseError c s).tk = s.tk := by unfold raiseError; split <;> rfl
@[simp] theorem raiseError_blkIn (c : ErrCode) (s : State) :
    (raiseError c s).blkIn = s.blkIn := by unfold raiseError; split <;> rfl
@[simp] theorem raiseError_blkOut (c : ErrCode) (s : State) :
    (raiseError c s).blkOut = s.blkOut := by unfold raiseError; split <;> rfl
@[simp] theorem raiseError_rk (c : ErrCode) (s : State) :
    (raiseError c s).rk = s.rk := by unfold raiseError; split <;> rfl
@[simp] theorem raiseError_lcmd (c : ErrCode) (s : State) :
    (raiseError c s).lcmd = s.lcmd := by unfold raiseError; split <;> rfl
@[simp] theorem raiseError_events (c : ErrCode) (s : State) :
    (raiseError c s).events = s.events := by unfold raiseError; split <;> rfl
@[simp] theorem raiseError_reply (c : ErrCode) (s : State) :
    (raiseError c s).reply = s.reply := by unfold raiseError; split <;> rfl
@[simp] theorem raiseError_draws (c : ErrCode) (s : State) :
    (raiseError c s).draws = s.draws := by unfold raiseError; split <;> rfl
@[simp] theorem raiseError_err (c : ErrCode) (s : State) : (raiseError c s).err = true := by
  unfold raiseError; split <;> simp_all
@[simp] theorem raiseError_ecode (c : ErrCode) (s : State) :
    (raiseError c s).ecode = if s.err then s.ecode else c := by
  unfold raiseError; split <;> rfl

@[simp] theorem writeReg_done (r : Reg) (v : Word32) (s : State) :
    (writeReg r v s).done = s.done := by cases r <;> rfl
@[simp] theorem writeReg_err (r : Reg) (v : Word32) (s : State) : (writeReg r v s).err = s.err := by cases r <;> rfl
@[simp] theorem writeReg_ecode (r : Reg) (v : Word32) (s : State) :
    (writeReg r v s).ecode = s.ecode := by cases r <;> rfl
@[simp] theorem writeReg_irqEn (r : Reg) (v : Word32) (s : State) :
    (writeReg r v s).irqEn = s.irqEn := by cases r <;> rfl
@[simp] theorem writeReg_blkOut (r : Reg) (v : Word32) (s : State) :
    (writeReg r v s).blkOut = s.blkOut := by cases r <;> rfl
@[simp] theorem writeReg_lcmd (r : Reg) (v : Word32) (s : State) :
    (writeReg r v s).lcmd = s.lcmd := by cases r <;> rfl
@[simp] theorem writeReg_events (r : Reg) (v : Word32) (s : State) :
    (writeReg r v s).events = s.events := by cases r <;> rfl
@[simp] theorem writeReg_reply (r : Reg) (v : Word32) (s : State) :
    (writeReg r v s).reply = s.reply := by cases r <;> rfl
@[simp] theorem writeReg_draws (r : Reg) (v : Word32) (s : State) :
    (writeReg r v s).draws = s.draws := by cases r <;> rfl

@[simp] theorem resetStep_events (s : State) : (resetStep s).events = s.events := rfl
@[simp] theorem resetStep_draws (s : State) : (resetStep s).draws = s.draws := rfl

@[simp] theorem busy_eq_true (s : State) : s.busy = true ↔ s.lcmd ≠ none := by
  simp [State.busy, Option.isSome_iff_ne_none]

@[simp] theorem busy_eq_false (s : State) : s.busy = false ↔ s.lcmd = none := by
  simp [State.busy]

@[simp] theorem reset_lcmd : State.reset.lcmd = none := rfl

end Sys2Proof.Machine
end

