-- ==== Sys2Proof/Laws/Machine.lean ====
section
/-! SUPPORT. One lemma per shared operation that says everything it can do. -/

namespace Sys2Proof.Machine

/-- `raiseError` as one record update. -/
theorem raiseError_eq (c : ErrCode) (s : State) :
    raiseError c s = { s with err := true, ecode := if s.err then s.ecode else c } := by
  unfold raiseError
  split <;> rename_i h
  · cases s; simp_all
  · cases s; simp_all

/-- Everything `performRounds` can do. -/
theorem performRounds_eq_next {R : BitVec 6} {p : State → State} {s t : State} :
    performRounds R p s = .next t ↔ R.toNat ≤ Config.maxRounds ∧ t = finishCommand (p s) := by
  unfold performRounds
  split <;> simp_all [eq_comm]

/-- `performRounds` on a legal round count completes. -/
theorem performRounds_next {R : BitVec 6} (p : State → State) (s : State) (h : R.toNat ≤ Config.maxRounds) :
    performRounds R p s = .next (finishCommand (p s)) := by
  simp [performRounds, h]

/-- `Perform(cmd)` (R69): the data effect of a command. -/
def perform (i : Instr) (s : State) : State :=
  match i with
  | .nop => s
  | .expandS R => keySchedule lfsrScope (loadSingle s.tk) R s
  | .expandD R => keySchedule lfsrScope (loadDouble s.tk) R s
  | .expandT R => keySchedule lfsrScope (loadTriple s.tk) R s
  | .encrypt R => blockTransform R s
  | .clear => clearData s

/-- Everything a completion can do: the command was legal, and the state is that of `Perform` and the end of the
command (R68, R69). -/
theorem exec_eq_next {i : Instr} {s t : State} :
    exec i s = .next t ↔ i.WellFormed ∧ t = finishCommand (perform i s) := by
  cases i <;>
    simp [exec, execNop, execExpandS, execExpandD, execExpandT, execEncrypt, execClear, performRounds_eq_next,
      perform, Instr.WellFormed, Instr.rounds, eq_comm (a := finishCommand _)]

/-- A legal command completes in every state. -/
theorem exec_next {i : Instr} (s : State) (h : i.WellFormed) : exec i s = .next (finishCommand (perform i s)) :=
  exec_eq_next.2 ⟨h, rfl⟩

/-- No completion ends in a fault: there is none (R130). -/
theorem exec_not_fault (i : Instr) (s : State) (f : Fault) : exec i s ≠ .fault f := nomatch f

@[simp] theorem perform_err (i : Instr) (s : State) : (perform i s).err = s.err := by cases i <;> rfl
@[simp] theorem perform_ecode (i : Instr) (s : State) : (perform i s).ecode = s.ecode := by cases i <;> rfl
@[simp] theorem perform_irqEn (i : Instr) (s : State) : (perform i s).irqEn = s.irqEn := by cases i <;> rfl
@[simp] theorem perform_events (i : Instr) (s : State) : (perform i s).events = s.events := by cases i <;> rfl
@[simp] theorem perform_reply (i : Instr) (s : State) : (perform i s).reply = s.reply := by cases i <;> rfl
@[simp] theorem perform_draws (i : Instr) (s : State) : (perform i s).draws = s.draws := by cases i <;> rfl

/-- The engine's turn, busy and idle. -/
theorem complete_busy {s : State} {i : Instr} (h : s.lcmd = some i) : complete s = exec i s := by
  simp [complete, h]

theorem complete_idle {s : State} (h : s.lcmd = none) : complete s = .next s := by simp [complete, h]

/-- Everything a step can do: the engine's step, a host transaction, or a reset (R10). -/
theorem step_cases {s t : State} (h : step s = .next t) :
    (∃ u : State, s.EngineNext ∧ complete u = .next t ∧ u = { s with events := s.events.tail }) ∨
    (∃ tx es, s.events = .host tx :: es ∧ t = transact tx { s with events := es }) ∨
    (∃ es, s.events = .reset :: es ∧ t = resetStep { s with events := es }) := by
  unfold step nextStep at h
  split at h
  · rename_i he
    exact .inl ⟨s, .inr he, h, by cases s; simp_all⟩
  · rename_i e es he
    cases e with
    | host tx => exact .inr (.inl ⟨tx, es, he, by simpa [takeTurn] using h.symm⟩)
    | engine => exact .inl ⟨_, .inl (by simp [he]), h, by simp [he]⟩
    | reset => exact .inr (.inr ⟨es, he, by simpa [takeTurn] using h.symm⟩)
    | hostInReset tx => simp [takeTurn] at h

/-- Everything issuing a command word can do (R67). -/
theorem issue_cases (w : Word32) (s : State) :
    (∃ c, issue w s = raiseError c s) ∨
    (∃ i, s.lcmd = none ∧ decode w = .ok i ∧ issue w s = { s with lcmd := some i }) := by
  unfold issue
  split
  · exact .inl ⟨_, rfl⟩
  · rename_i hb
    cases hd : decode w with
    | error c => exact .inl ⟨c, rfl⟩
    | ok i => exact .inr ⟨i, by simpa using hb, rfl, rfl⟩

/-- A register found at an offset has that offset in the map (R41). -/
theorem regOffset_of_regAt {off : Offset} {r : Reg} (h : regAt off = some r) : regOffset r = off := by
  simpa using List.find?_some h

/-- Everything a read transaction can do: a reply, and at most one free value drawn (R46, R51). -/
theorem busRead_eq (off : Offset) (s : State) :
    ∃ r n, busRead off s = { s with reply := some r, draws := n } := by
  unfold busRead
  split
  · exact ⟨_, s.draws, rfl⟩
  · split
    · exact ⟨_, s.draws, rfl⟩
    · unfold readMapped
      split
      · exact ⟨_, _, rfl⟩
      · exact ⟨_, s.draws, rfl⟩

/-- Everything a write to an operand register can do (R47, R50). -/
theorem writeOperand_cases (r : Reg) (v : Word32) (s : State) :
    (s.lcmd ≠ none ∧ writeOperand r v s = raiseError .busyWrite s) ∨
    (s.lcmd = none ∧ writeOperand r v s = writeReg r v s) := by
  unfold writeOperand
  cases h : s.lcmd <;> simp [State.busy, h]

/-- Everything a write transaction can do (R43 to R47, R50, R67): nothing but its reply, an error recorded, a command
latched, an acknowledgement, `IRQ_EN` written, or the operand register at its offset written while idle. -/
theorem busWrite_cases (off : Offset) (v : Word32) (s : State) :
    ∃ r u, busWrite off v s = respond r u ∧
      (u = s ∨ (∃ c, u = raiseError c s) ∨
      (∃ i, off = 0x004 ∧ s.lcmd = none ∧ decode v = .ok i ∧ u = { s with lcmd := some i }) ∨
      (off = 0x008 ∧ u = acknowledge v s) ∨ (off = 0x00C ∧ u = { s with irqEn := irqEnMask v }) ∨
      ∃ q, regAt off = some q ∧ s.lcmd = none ∧ isOperand q = true ∧ u = writeReg q v s) := by
  unfold busWrite
  split
  · exact ⟨_, s, rfl, .inl rfl⟩
  split
  · exact ⟨_, s, rfl, .inl rfl⟩
  rename_i r hr
  have off_eq := (regOffset_of_regAt hr).symm
  have operand (q : Reg) (hq : regAt off = some q) (ho : isOperand q = true) :
      (∃ c, writeOperand q v s = raiseError c s) ∨
      ∃ p, regAt off = some p ∧ s.lcmd = none ∧ isOperand p = true ∧ writeOperand q v s = writeReg p v s := by
    rcases writeOperand_cases q v s with ⟨_, h⟩ | ⟨h0, h⟩
    · exact .inl ⟨_, h⟩
    · exact .inr ⟨q, hq, h0, ho, h⟩
  cases r with
  | id => exact ⟨_, s, rfl, .inl rfl⟩
  | blkOut k => exact ⟨_, s, rfl, .inl rfl⟩
  | cmd =>
    rcases issue_cases v s with ⟨c, h⟩ | ⟨i, h0, h1, h⟩
    · exact ⟨_, _, rfl, .inr (.inl ⟨c, h⟩)⟩
    · exact ⟨_, _, rfl, .inr (.inr (.inl ⟨i, off_eq, h0, h1, h⟩))⟩
  | status => exact ⟨_, _, rfl, .inr (.inr (.inr (.inl ⟨off_eq, rfl⟩)))⟩
  | irqEn => exact ⟨_, _, rfl, .inr (.inr (.inr (.inr (.inl ⟨off_eq, rfl⟩))))⟩
  | tk w => exact ⟨_, _, rfl, .inr ((operand _ hr rfl).imp id fun h => .inr (.inr (.inr h)))⟩
  | blkIn k => exact ⟨_, _, rfl, .inr ((operand _ hr rfl).imp id fun h => .inr (.inr (.inr h)))⟩
  | rkHi e => exact ⟨_, _, rfl, .inr ((operand _ hr rfl).imp id fun h => .inr (.inr (.inr h)))⟩
  | rkLo e => exact ⟨_, _, rfl, .inr ((operand _ hr rfl).imp id fun h => .inr (.inr (.inr h)))⟩

@[simp] theorem hostDone_nil : hostDone [] = true := rfl

@[simp] theorem hostDone_cons (e : Event) (es : List Event) :
    hostDone (e :: es) = (!isHostEvent e && hostDone es) := rfl

/-- No host transaction is to come exactly when the schedule holds none, neither outside nor during reset. -/
theorem hostDone_iff (es : List Event) :
    hostDone es = true ↔ ∀ t : Txn, Event.host t ∉ es ∧ Event.hostInReset t ∉ es := by
  unfold hostDone
  rw [List.all_eq_true]
  constructor
  · exact fun h t => ⟨fun m => absurd (h _ m) (by simp [isHostEvent]), fun m => absurd (h _ m) (by simp [isHostEvent])⟩
  · intro h e m
    cases e with
    | host t => exact absurd m (h t).1
    | hostInReset t => exact absurd m (h t).2
    | engine => rfl
    | reset => rfl

/-- A run of one step more is the run from the next state. -/
theorem run_next {s t : State} (h : step s = .next t) (k : Nat) : core.run (k + 1) s = core.run k t := by
  have h' : core.step s = .next t := h
  simp only [Host.Core.run, h']

end Sys2Proof.Machine
end

