-- ==== Sys2Proof/Laws/Bus.lean ====
section
/-! SUPPORT. What a transaction at a register's own offset does. -/

namespace Sys2Proof.Machine

/-- Every register stands at an aligned offset, and the map finds it there (R41). -/
theorem regOffset_found (r : Reg) : misaligned (regOffset r) = false ∧ regAt (regOffset r) = some r := by
  cases r with
  | id => decide +kernel
  | cmd => decide +kernel
  | status => decide +kernel
  | irqEn => decide +kernel
  | tk w => revert w; decide +kernel
  | blkIn k => revert k; decide +kernel
  | blkOut k => revert k; decide +kernel
  | rkHi e => revert e; decide +kernel
  | rkLo e => revert e; decide +kernel

/-- A write at a register's offset (R45, R47). -/
theorem transact_write (r : Reg) (v : Word32) (s : State) :
    transact (.write (regOffset r) v) s = writeMapped r v s := by
  simp [transact, busWrite, regOffset_found r]

/-- A read at a register's offset (R46). -/
theorem transact_read (r : Reg) (s : State) : transact (.read (regOffset r)) s = readMapped r s := by
  simp [transact, busRead, regOffset_found r]

/-- A command write (R67). -/
theorem transact_write_cmd (w : Word32) (s : State) :
    transact (.write 0x004 w) s = respond (.write .okay) (issue w s) := transact_write .cmd w s

/-- An acknowledgement (R47, R143). -/
theorem transact_write_status (v : Word32) (s : State) :
    transact (.write 0x008 v) s = respond (.write .okay) (acknowledge v s) := transact_write .status v s

/-- An interrupt-enable write (R19). -/
theorem transact_write_irqEn (v : Word32) (s : State) :
    transact (.write 0x00C v) s = respond (.write .okay) { s with irqEn := irqEnMask v } :=
  transact_write .irqEn v s

/-- A write to an operand register (R47, R50). -/
theorem transact_write_operand {r : Reg} (h : isOperand r = true) (v : Word32) (s : State) :
    transact (.write (regOffset r) v) s = respond (.write .okay) (writeOperand r v s) := by
  rw [transact_write]
  cases r <;> first | rfl | cases h

end Sys2Proof.Machine
end

