-- ==== Sys2Proof/Laws/Cipher.lean ====
section
/-! SUPPORT. The cells of the cipher's operations, and packing and unpacking. -/

namespace Sys2Proof.Machine

@[simp] theorem unpack_getElem (x : Word64) (i : Nat) (h : i < 16) : (unpack x)[i] = nib x ⟨i, h⟩ := by
  simp [unpack]

@[simp] theorem subCells_getElem (st : Nib16) (i : Nat) (h : i < 16) : (subCells st)[i] = sbox st[i] := by
  simp [subCells]

@[simp] theorem addRoundKey_getElem (k st : Nib16) (i : Nat) (h : i < 16) :
    (addRoundKey k st)[i] = st[i] ^^^ k[i] := by
  simp [addRoundKey]

@[simp] theorem permuteWord_getElem (w : Nib16) (i : Nat) (h : i < 16) : (permuteWord w)[i] = w[pt[i]] := by
  simp [permuteWord]

@[simp] theorem updateWord_all16_getElem (f : Nibble → Nibble) (w : Nib16) (i : Nat) (h : i < 16) :
    (updateWord .all16 f w)[i] = f w[i] := by
  simp [updateWord, inCells]

/-- What the write-back leaves in entry `e` (R90). -/
theorem expandStore_getElem (sc : LfsrScope) (t : TweakeyState) (R : BitVec 6) (rk : Vector RkEntry 48) (e : Fin 48) :
    (expandStore sc t R rk)[e] = if e.val < R.toNat then packEntry (roundKey sc t e) else rk[e] := by
  simp [expandStore]

/-- Bit `i` of a pair of registers read as one 64-bit value (R5). -/
theorem getLsbD_pair (a b : Word32) (i : Nat) :
    BitVec.getLsbD (a ++ b : Word64) i = if i < 32 then b.getLsbD i else a.getLsbD (i - 32) :=
  BitVec.getLsbD_append

/-- Bit `i` of eight packed nibbles. -/
theorem packNibbles_getLsbD (n0 n1 n2 n3 n4 n5 n6 n7 : Nibble) (i : Nat) :
    (packNibbles n0 n1 n2 n3 n4 n5 n6 n7).getLsbD i =
      if i < 4 then n7.getLsbD i else if i < 8 then n6.getLsbD (i - 4) else if i < 12 then n5.getLsbD (i - 8)
      else if i < 16 then n4.getLsbD (i - 12) else if i < 20 then n3.getLsbD (i - 16)
      else if i < 24 then n2.getLsbD (i - 20) else if i < 28 then n1.getLsbD (i - 24) else n0.getLsbD (i - 28) := by
  by_cases h : i < 32
  · interval_cases i <;> simp [packNibbles]
  · have : 4 ≤ i - 28 := by omega
    rw [BitVec.getLsbD_of_ge _ _ (by omega)]
    repeat rw [if_neg (by omega)]
    rw [BitVec.getLsbD_of_ge _ _ this]

/-- Nibble `i` of a pair of packed words is cell `i` (R90, R108). -/
theorem nib_pack (k : Nib16) (i : Fin 16) : nib (packHigh k ++ packLow k) i = k[i] := by
  apply BitVec.eq_of_getLsbD_eq
  intro j hj
  rw [nib, BitVec.getLsbD_extractLsb', getLsbD_pair]
  simp only [packHigh, packLow, packNibbles_getLsbD]
  fin_cases i <;> interval_cases j <;> rfl

/-- Repacking the cells of a pair of registers gives the pair back: "Repacking is the inverse of unpacking" (R108). -/
theorem pack_unpack (a b : Word32) : packHigh (unpack (a ++ b)) = a ∧ packLow (unpack (a ++ b)) = b := by
  constructor <;> apply BitVec.eq_of_getLsbD_eq <;> intro j hj <;>
    simp only [packHigh, packLow, packNibbles_getLsbD, unpack, Vector.getElem_ofFn, nib,
      BitVec.getLsbD_extractLsb', getLsbD_pair] <;>
    interval_cases j <;> simp

/-- Unpacking a packed pair gives the cells back. -/
theorem unpack_pack (k : Nib16) : unpack (packHigh k ++ packLow k) = k := by
  ext i hi : 1
  rw [unpack_getElem, nib_pack]
  rfl

/-- The cells of a packed round-key entry (R26, R90). -/
theorem packEntry_cells (k : Nib16) : (packEntry k).cells = k := unpack_pack k

/-- The block a packed pair of registers holds (R24, R108). -/
theorem unpack_packBlock (k : Nib16) : unpack (blockWord (packBlock k)) = k := unpack_pack k

end Sys2Proof.Machine
end

