-- ==== Sys2Proof/Laws/PerInstr.lean ====
section
/-! SUPPORT. The statements made per instruction, one lemma per constructor. -/

namespace Sys2Proof.Laws

/-- The fields of an instruction's word are its own, and the reserved bits are 0 (30_encoding.md R61 to R65). -/
def EncodedFields.Statement (i : Instr) : Prop :=
  opField (encode i) = opOf i ∧ varField (encode i) = varOf i ∧ roundsField (encode i) = i.rounds ∧
    rsv0Field (encode i) = 0 ∧ rsv1Field (encode i) = 0

/-- The fields of a command word (R61). -/
theorem commandWord_fields (op : BitVec 4) (var : BitVec 2) (R : BitVec 6) :
    opField (commandWord op var R) = op ∧ varField (commandWord op var R) = var ∧
      roundsField (commandWord op var R) = R ∧ rsv0Field (commandWord op var R) = 0 ∧
      rsv1Field (commandWord op var R) = 0 := by
  refine ⟨?_, ?_, ?_, ?_, ?_⟩ <;> apply BitVec.eq_of_getLsbD_eq <;> intro i hi <;>
    simp only [opField, varField, roundsField, rsv0Field, rsv1Field, commandWord, BitVec.getLsbD_extractLsb',
      BitVec.getLsbD_append] <;>
    interval_cases i <;> simp

theorem EncodedFields.nop : EncodedFields.Statement .nop := commandWord_fields _ _ _
theorem EncodedFields.expandS (R : BitVec 6) : EncodedFields.Statement (.expandS R) := commandWord_fields _ _ _
theorem EncodedFields.expandD (R : BitVec 6) : EncodedFields.Statement (.expandD R) := commandWord_fields _ _ _
theorem EncodedFields.expandT (R : BitVec 6) : EncodedFields.Statement (.expandT R) := commandWord_fields _ _ _
theorem EncodedFields.encrypt (R : BitVec 6) : EncodedFields.Statement (.encrypt R) := commandWord_fields _ _ _
theorem EncodedFields.clear : EncodedFields.Statement .clear := commandWord_fields _ _ _

end Sys2Proof.Laws
end

