-- ==== Sys2Proof/Machine/HostProgram.lean ====
section
/-! DEFINITION. The assembler notation of host programs as lists of transactions (spec/30_encoding.md R71, R72). "The
notation is not hardware": no step of the machine uses this file. -/

namespace Sys2Proof.Machine

/-- `CMD c`, or the bare mnemonic `c`: `WR 0x004, enc(c)` (R72). -/
def cmdTxns (i : Instr) : List Txn := [.write 0x004 (encode i)]

/-- `WAIT` that polls `STATUS` `n` times (R72; log 7). How often a host polls is the schedule's affair. -/
def waitTxns (n : Nat) : List Txn := List.replicate n (.read 0x008)

/-- Whether a `STATUS` value ends `WAIT`: `data[0] = 0` (R72). -/
def waitOver (data : Word32) : Bool := !data.getLsbD 0

/-- `ACK`: `WR 0x008, 0x00000006` (R72). -/
def ackTxns : List Txn := [.write 0x008 0x00000006]

/-- `LDTK h`, `h` given as its 32-bit words: word `w` goes to `0x020 + 4w` (R72). -/
def loadTweakeyTxns (h : List Word32) : List Txn :=
  h.mapIdx fun w v => .write (BitVec.ofNat 10 (0x020 + 4 * w)) v

/-- `LDBLK h` (R72). -/
def loadBlockTxns (h : Word64) : List Txn :=
  [.write 0x040 (h.extractLsb' 32 32), .write 0x044 (h.extractLsb' 0 32)]

/-- `RDBLK` (R72). -/
def readBlockTxns : List Txn := [.read 0x048, .read 0x04C]

/-- `RDRK e` (R72). -/
def readKeyTxns (e : Fin 48) : List Txn := [.read (regOffset (.rkHi e)), .read (regOffset (.rkLo e))]

/-- `WRRK e, h` (R72). -/
def writeKeyTxns (e : Fin 48) (h : Word64) : List Txn :=
  [.write (regOffset (.rkHi e)) (h.extractLsb' 32 32), .write (regOffset (.rkLo e)) (h.extractLsb' 0 32)]

/-- A host program's transactions performed one after the other, with no engine step between them (R52). -/
def transactAll (ts : List Txn) (s : State) : State := ts.foldl (fun st t => transact t st) s

end Sys2Proof.Machine
end

