-- ==== Sys2Proof/Tests/Slice0.lean ====
section
/-! SUPPORT. Tests. Expected values come from spec/95_test_vectors.md, from the tables of the rules, or from a hand
calculation named at the test; the witnesses show that each statement's hypotheses can be met. -/

namespace Sys2Proof.Tests
open Sys2Proof.Machine

-- One test at a time: many kernel evaluations side by side would each hold a thread.
set_option Elab.async false

/-! ## Helpers -/

/-- A state with a command latched and a schedule to come, everything else as after reset. -/
def running (i : Instr) (es : List Event) : State := { State.reset with lcmd := some i, events := es }

/-- An idle state with a schedule to come. -/
def waiting (es : List Event) : State := { State.reset with events := es }

/-- One view of the next state, if there is one. -/
def view {α : Type} (f : State → α) (o : Host.Outcome State Fault Refusal) : Option α :=
  match o with
  | .next t => some (f t)
  | .fault _ => none
  | .refused _ => none

/-- Whether a step is refused for a reason. -/
def refusedFor (r : Refusal) (o : Host.Outcome State Fault Refusal) : Bool :=
  match o with
  | .next _ => false
  | .fault _ => false
  | .refused q => q = r

/-- Whether a decoder's answer is an instruction. -/
def decodesTo (i : Instr) (w : Word32) : Bool :=
  match decode w with
  | .ok j => j = i
  | .error _ => false

/-- The error code a decoder answers. -/
def decodeError (w : Word32) : Option ErrCode :=
  match decode w with
  | .ok _ => none
  | .error e => some e

/-- A state with a tweakey. -/
def keyed (a b d e f g : Word32) : State := { State.reset with tk := #v[a, b, d, e, f, g] }

/-- `STATUS` after a transaction. -/
def statusAfter (t : Txn) (s : State) : Word32 := statusWord (transact t s)

/-! ## Well-formedness: an ill-formed term of each shape is refused (R64) -/

theorem test_ill_formed_rounds :
    ¬ (Instr.expandS 49).WellFormed ∧ ¬ (Instr.expandD 49).WellFormed ∧ ¬ (Instr.expandT 63).WellFormed ∧
    ¬ (Instr.encrypt 49).WellFormed := by decide

/-- The boundary value 48 is legal (R64). -/
theorem test_well_formed_boundary :
    (Instr.expandS 48).WellFormed ∧ (Instr.expandD 48).WellFormed ∧ (Instr.expandT 48).WellFormed ∧
    (Instr.encrypt 48).WellFormed ∧ Instr.nop.WellFormed ∧ Instr.clear.WellFormed := by decide

/-! ## Decoding: words written out field by field, `RSV1 ROUNDS RSV0 VAR OP` (R61) -/

/-- `OP` = 0x0 (R62). -/
theorem test_decode_nop : decodesTo .nop 0b000000000000000000_000000_00_00_0000 = true := by decide
/-- `OP` = 0x1, `VAR` = 01, `ROUNDS` = 32 (R63): 0x00002011. -/
theorem test_decode_expandS : decodesTo (.expandS 32) 0b000000000000000000_100000_00_01_0001 = true := by decide
/-- `VAR` = 10, `ROUNDS` = 36: 0x00002421. -/
theorem test_decode_expandD : decodesTo (.expandD 36) 0b000000000000000000_100100_00_10_0001 = true := by decide
/-- `VAR` = 11, `ROUNDS` = 48: 0x00003031. -/
theorem test_decode_expandT : decodesTo (.expandT 48) 0b000000000000000000_110000_00_11_0001 = true := by decide
/-- `OP` = 0x2, `ROUNDS` = 1: 0x00000102. -/
theorem test_decode_encrypt : decodesTo (.encrypt 1) 0b000000000000000000_000001_00_00_0010 = true := by decide
/-- `OP` = 0x3. -/
theorem test_decode_clear : decodesTo .clear 0b000000000000000000_000000_00_00_0011 = true := by decide

/-- The encoder writes the worked encodings of 30_encoding.md section 5. -/
theorem test_encode_worked :
    encode (.expandS 32) = 0x00002011 ∧ encode (.expandD 36) = 0x00002421 ∧ encode (.expandT 40) = 0x00002831 ∧
    encode (.encrypt 32) = 0x00002002 ∧ encode .nop = 0 ∧ encode .clear = 3 := by decide

/-- The rejected words of 95_test_vectors.md section 5 that are `ILLEGAL_CMD`, each for a reason of its own. -/
theorem test_decode_illegal :
    [0x00000004, 0x0000000F, 0x00000040, 0x00004011, 0x80000002, 0x00000100, 0x00000010, 0x00000013,
      0x00000012].map decodeError = List.replicate 9 (some .illegalCmd) := by decide

/-- The other rejected words there, with `BAD_VARIANT` before `BAD_ROUNDS`. -/
theorem test_decode_bad_fields :
    [0x00000001, 0x00003101, 0x00003111, 0x00003F02].map decodeError =
      [some .badVariant, some .badVariant, some .badRounds, some .badRounds] := by decide

/-- An opcode-table row of 32 bits reaches the decoder, a longer one names no command (R60; log 17). -/
theorem test_table_word :
    decodeTableWord 32 0x00002011 = some (.expandS 32) ∧ decodeTableWord 48 0x00002011 = none := by decide

/-! ## The register window (95_test_vectors.md section 6) -/

/-- The offsets at the ends of the register map's ranges (R41). -/
theorem test_register_map_ends :
    [0x000, 0x00C, 0x020, 0x034, 0x040, 0x044, 0x048, 0x04C, 0x100, 0x104, 0x278, 0x27C].map regAt =
      [some .id, some .irqEn, some (.tk 0), some (.tk 5), some (.blkIn 0), some (.blkIn 1), some (.blkOut 0),
        some (.blkOut 1), some (.rkHi 0), some (.rkLo 0), some (.rkHi 47), some (.rkLo 47)] := by decide +kernel

/-- Refused transactions: `RD 0x002`, `RD 0x010`, `RD 0x280`, `WR 0x006`, `WR 0x000`, `WR 0x048`. -/
theorem test_refused_transactions :
    ([.read 0x002, .read 0x010, .read 0x280].map fun t => (transact t State.reset).reply) =
      List.replicate 3 (some (.read .error 0)) ∧
    ([.write 0x006 1, .write 0x000 0, .write 0x048 0x12345678].map fun t => (transact t State.reset).reply) =
      List.replicate 3 (some (.write .error)) := by decide +kernel

/-- `RD 0x000`, `RD 0x004`, and `RD 0x040` while busy. -/
theorem test_reads :
    (transact (.read 0x000) State.reset).reply = some (.read .okay 0x534B3634) ∧
    (transact (.read 0x004) State.reset).reply = some (.read .okay 0x00000000) ∧
    (transact (.read 0x040) { running .nop [] with blkIn := #v[0xCAFE0001, 0] }).reply =
      some (.read .okay 0xCAFE0001) := by decide +kernel

/-- `WR 0x00C, 0xFFFFFFFF`, `WR 0x020, 0xDEADBEEF` idle, `WR 0x27C, 0x1`. -/
theorem test_idle_writes :
    (transact (.write 0x00C 0xFFFFFFFF) State.reset).irqEn = 0x00000006 ∧
    (transact (.write 0x020 0xDEADBEEF) State.reset).tk[0] = 0xDEADBEEF ∧
    (transact (.write 0x27C 0x1) State.reset).rk[47] = ⟨0, 1⟩ := by decide +kernel

/-- `WR 0x008` on `STATUS` = 0x36 (DONE, ERR, ECODE 3) and on 0x35 (busy). -/
theorem test_acknowledge :
    statusAfter (.write 0x008 0xFFFFFFFF) { State.reset with done := true, err := true, ecode := .badRounds } = 0 ∧
    statusAfter (.write 0x008 0x2) { State.reset with done := true, err := true, ecode := .badRounds } = 0x34 ∧
    statusAfter (.write 0x008 0x4) { running .nop [] with err := true, ecode := .badRounds } = 0x1 := by
  decide +kernel

/-- A busy write to `TK[0]` and a busy write to `CMD`: `STATUS` = 0x55 and 0x45, `TK[0]` unchanged. -/
theorem test_busy_writes :
    statusAfter (.write 0x020 0xDEADBEEF) (running .nop []) = 0x55 ∧
    (transact (.write 0x020 0xDEADBEEF) (running .nop [])).tk[0] = 0 ∧
    statusAfter (.write 0x004 0x00000003) (running .nop []) = 0x45 := by decide +kernel

/-- `STATUS` right after `CMD` writes of 95_test_vectors.md section 5, and the first error kept. -/
theorem test_issue_status :
    ([0x00000000, 0x00003002, 0x00000004, 0x00000001, 0x00003111].map fun w =>
      statusAfter (.write 0x004 w) State.reset) = [0x01, 0x01, 0x14, 0x24, 0x34] ∧
    statusAfter (.write 0x004 1) (transact (.write 0x004 4) State.reset) = 0x14 := by decide +kernel

/-- The pseudo-instructions give the transactions of R72 (program P1's lines). -/
theorem test_host_program :
    cmdTxns (.encrypt 32) = [.write 0x004 0x00002002] ∧ ackTxns = [.write 0x008 0x00000006] ∧
    loadTweakeyTxns [0xF5269826, 0xFC681238] = [.write 0x020 0xF5269826, .write 0x024 0xFC681238] ∧
    loadBlockTxns 0x06034F957724D19D = [.write 0x040 0x06034F95, .write 0x044 0x7724D19D] ∧
    readKeyTxns 47 = [.read 0x278, .read 0x27C] ∧
    writeKeyTxns 0 0x0123456789ABCDEF = [.write 0x100 0x01234567, .write 0x104 0x89ABCDEF] := by decide +kernel

/-! ## The operand layout (R21, R24) -/

/-- Byte 0 of the tweakey is bits 31:24 of `TK[0]`, byte 23 is bits 7:0 of `TK[5]`; nibble 47 is the last. -/
theorem test_tweakey_layout :
    tweakeyByte #v[0x12345678, 0, 0, 0, 0, 0x000000AB] 0 = 0x12 ∧
    tweakeyByte #v[0x12345678, 0, 0, 0, 0, 0x000000AB] 23 = 0xAB ∧
    tweakeyNibble #v[0x12345678, 0, 0, 0, 0, 0x000000AB] 1 = 0x2 ∧
    tweakeyNibble #v[0x12345678, 0, 0, 0, 0, 0x000000AB] 47 = 0xB := by decide +kernel

/-! ## The round operations (95_test_vectors.md section 2) -/

/-- `SubCells(0123456789ABCDEF)` = C6901A2B385D4E7F and `ShiftRows(0123456789ABCDEF)` = 01237456AB89DEFC. -/
theorem test_subCells_shiftRows :
    packBlock (subCells (unpack 0x0123456789ABCDEF)) = #v[0xC6901A2B, 0x385D4E7F] ∧
    packBlock (shiftRows (unpack 0x0123456789ABCDEF)) = #v[0x01237456, 0xAB89DEFC] := by decide +kernel

/-- The identity and the marker test S8 of MixColumns. -/
theorem test_mixColumns :
    packBlock (mixColumns (unpack 0x0123456789ABCDEF)) = #v[0x45670123, 0xCCCC8888] ∧
    packBlock (mixColumns (unpack 0x1111222244448888)) = #v[0xDDDD1111, 0x66665555] := by decide +kernel

/-- Two and three rounds of `PT` on the identity word. -/
theorem test_permuteWord :
    packBlock (permuteWord (permuteWord (unpack 0x0123456789ABCDEF))) = #v[0x17052643, 0x9F8DAECB] ∧
    packBlock (permuteWord (permuteWord (permuteWord (unpack 0x0123456789ABCDEF)))) =
      #v[0xFB9E8CAD, 0x17052643] := by decide +kernel

/-! ## The commands (95_test_vectors.md sections 3, 4 and 7) -/

/-- From reset, NOP then its completion: `STATUS` reads 0x00000002 (R120). -/
theorem test_nop : view statusWord (step (running .nop [.engine])) = some 0x00000002 := by decide +kernel

/-- R121's example: `TK[0]` = 0x01234567 is zeroed, `DONE` is 1, and an error survives. -/
theorem test_clear :
    view (fun t => (t.tk[0], statusWord t, t.irqEn))
      (exec .clear { keyed 0x01234567 0 0 0 0 0 with err := true, ecode := .busyCmd, irqEn := 6 }) =
      some (0, 0x46, 6) := by decide +kernel

/-- `EXPAND.S 4` on 0123456789ABCDEF, with `TK[2]` ignored. -/
theorem test_expandS :
    view (fun t => [t.rk[0].word, t.rk[1].word, t.rk[2].word, t.rk[3].word, t.rk[4].word])
      (exec (.expandS 4) (keyed 0x01234567 0x89ABCDEF 0xFFFFFFFF 0 0 0)) =
      some [0x1123456720000000, 0xAF8DAECB20000000, 0x6705264320000000, 0x0B9E8CAD20000000, 0] := by
  decide +kernel

/-- `EXPAND.S 48` on the zero tweakey: `RK[5]` and `RK[47]`. -/
theorem test_expandS_all_rounds :
    view (fun t => [t.rk[5].word, t.rk[47].word]) (exec (.expandS 48) State.reset) =
      some [0xE000300020000000, 0x4000000020000000] := by decide +kernel

/-- `EXPAND.D 4`, with the LFSR on all 16 cells (`ROWS01` would differ from `RK[2]` on). -/
theorem test_expandD :
    view (fun t => [t.rk[0].word, t.rk[1].word, t.rk[2].word, t.rk[3].word])
      (exec (.expandD 4) (keyed 0x01234567 0x89ABCDEF 0xFEDCBA98 0x76543210 0 0)) =
      some [0xEFFFFFFF20000000, 0x7F791CA220000000, 0xE5CE70B220000000, 0x0DC7465E20000000] := by decide +kernel

/-- `RK[2]` and `RK[3]` of the same command under the cross-check scope `ROWS01`, which is not this hardware. -/
theorem test_expandD_rows01 :
    ((packBlock (roundKey .rows01 (loadDouble #v[0x01234567, 0x89ABCDEF, 0xFEDCBA98, 0x76543210, 0, 0]) 2))[0],
      (packBlock (roundKey .rows01 (loadDouble #v[0x01234567, 0x89ABCDEF, 0xFEDCBA98, 0x76543210, 0, 0]) 3))[0]) =
      (0xA6E0853B, 0x083A61D4) := by decide +kernel

/-- `EXPAND.T 4`. -/
theorem test_expandT :
    view (fun t => [t.rk[0].word, t.rk[1].word, t.rk[2].word, t.rk[3].word])
      (exec (.expandT 4) (keyed 0x01234567 0x89ABCDEF 0xFEDCBA98 0x76543210 0x00112233 0x44556677)) =
      some [0xEFEEDDCC20000000, 0x545AB79820000000, 0xE1C6B43E20000000, 0xAB4DC23A20000000] := by decide +kernel

/-- `ENCRYPT 2` on the zero block with the round keys of `EXPAND.S 2` on the zero tweakey (section 4.1). -/
theorem test_encrypt :
    view (fun t => t.blkOut)
      (exec (.encrypt 2) { State.reset with
        rk := (State.reset.rk.set 0 ⟨0x10000000, 0x20000000⟩).set 1 ⟨0x30000000, 0x20000000⟩ }) =
      some #v[0x815ED474, 0xD2A84898] := by decide +kernel

/-- Program P4: a host-written round key with cells 8 to 15 nonzero, one round. -/
theorem test_encrypt_host_key :
    view (fun t => t.blkOut)
      (exec (.encrypt 1) { State.reset with rk := State.reset.rk.set 0 ⟨0x01234567, 0x89ABCDEF⟩ }) =
      some #v[0xB89ACDEF, 0xDFDFAAAA] := by decide +kernel

/-- Program P1's end: 32 rounds under the 32 round keys of F5269826FC681238 give the published ciphertext. -/
theorem test_published_vector :
    encryptRounds (expandStore .all16 (loadSingle #v[0xF5269826, 0xFC681238, 0, 0, 0, 0]) 32 State.reset.rk) 32
      (unpack 0x06034F957724D19D) = unpack 0xBB39DFB2429B8AC7 := by decide +kernel

/-! ## Steps: the two schedules of program P3, reset, the interrupt -/

/-- Schedule A of P3: the NOP comes before the completion and raises `BUSY_CMD`, so `STATUS` ends as 0x46. -/
theorem test_p3_busy_command :
    view statusWord (step (running (.expandS 1) [.host (.write 0x004 0)])) = some 0x45 ∧
    view statusWord (step { running (.expandS 1) [.engine] with err := true, ecode := .busyCmd }) = some 0x46 := by
  decide +kernel

/-- Schedule B of P3: the NOP comes after the completion and is accepted. -/
theorem test_p3_accepted_command :
    view statusWord (step { waiting [.host (.write 0x004 0)] with done := true }) = some 0x03 := by decide +kernel

/-- Reset discards the running command and does not set `DONE` (R160). -/
theorem test_reset_discards :
    view (fun t => (statusWord t, t.lcmd, t.irqEn)) (step { running .clear [.reset] with irqEn := 6, done := true }) =
      some (0, none, 0) := by decide +kernel

/-- P3's interrupt: an error with `ERR_IE` = 1 asserts `irq`; without it, it does not. -/
theorem test_irq_on_error :
    (transact (.write 0x004 0x4) { State.reset with irqEn := 4 }).irq = true ∧
    (transact (.write 0x004 0x4) State.reset).irq = false := by decide +kernel

/-- The end of a run (R171): over with an engine turn or a reset still to come, not over with a transaction to come or
a command latched. -/
theorem test_run_over :
    (waiting [.engine, .reset]).Finished ∧ ¬ (waiting [.engine, .host (.read 0x008)]).Finished ∧
    ¬ (running .nop []).Finished := by decide

/-- Every latched row of the opcode table runs as the very next step (log 12). -/
theorem test_placed_word : view statusWord (step (State.reset.withFetchWord 32 0x00000003)) = some 0x2 := by
  decide +kernel

/-! ## Witnesses: the hypotheses of each statement, met together, with a case for each clause -/

theorem test_witness_EncodedCommandDecodesToItself :
    (Instr.expandT 48).WellFormed ∧ (Instr.encrypt 0).WellFormed ∧ Instr.clear.WellFormed := by decide

theorem test_witness_DecodedWordIsTheCommandsOnlyWord :
    decode 0x00003031 = .ok (.expandT 48) ∧ decode 0x00000002 = .ok (.encrypt 0) := ⟨rfl, rfl⟩

theorem test_witness_EngineTurnRunsLatchedCommand :
    (running .nop [.engine]).lcmd = some .nop ∧ (running .nop [.engine]).events = .engine :: [] ∧
    (running .clear []).lcmd = some .clear ∧ (running .clear []).events = [] := by decide

theorem test_witness_HostAndResetTurnsAct :
    (waiting [.host (.read 0x000)]).events = .host (.read 0x000) :: [] ∧
    (running .clear [.reset]).events = .reset :: [] := ⟨rfl, rfl⟩

theorem test_witness_IssuedWordIsExecuted :
    decode 0x00000003 = .ok .clear ∧ (waiting [.host (.write 0x004 0x00000003), .engine]).lcmd = none ∧
    (waiting [.host (.write 0x004 0x00000003), .engine]).events =
      .host (.write 0x004 0x00000003) :: .engine :: [] := ⟨rfl, rfl, rfl⟩

theorem test_witness_PlacedTableWordIsExecuted :
    decodeTableWord 32 0x00000000 = some .nop ∧ decodeTableWord 32 0x00003031 = some (.expandT 48) := by decide

theorem test_witness_IdleEngineChangesNothing :
    (waiting [.engine]).lcmd = none ∧ (waiting [.engine]).events = .engine :: [] ∧
    (waiting []).lcmd = none ∧ (waiting []).events = [] ∧
    (waiting [.reset]).Finished ∧ step (waiting [.reset]) = .next State.reset ∧
    (waiting [.engine, .reset]).Finished ∧ step (waiting [.engine, .reset]) = .next (waiting [.reset]) :=
  ⟨rfl, rfl, rfl, rfl, by decide, rfl, by decide, rfl⟩

theorem test_witness_TransactionInResetIsRefused :
    (waiting [.hostInReset (.read 0x008)]).events = .hostInReset (.read 0x008) :: [] := rfl

theorem test_witness_DoneIsSetByCompletionAndHeld :
    exec .nop State.reset = .next (finishCommand State.reset) ∧
    exec (.encrypt 48) State.reset = .next (finishCommand (perform (.encrypt 48) State.reset)) ∧
    (∀ v : Word32, Txn.write 0x004 0x00000004 ≠ .write 0x008 v) ∧ ∀ v : Word32, Txn.read 0x008 ≠ .write 0x008 v :=
  ⟨rfl, exec_next _ (by decide), by simp, by simp⟩

theorem test_witness_RecordedErrorIsHeldUntilCleared :
    ({ State.reset with err := true, ecode := .badRounds } : State).err = true ∧
    (∀ v : Word32, Txn.write 0x008 0x00000002 = .write 0x008 v → v.getLsbD 2 = false) ∧
    (∀ v : Word32, Txn.write 0x004 0x00000004 = .write 0x008 v → v.getLsbD 2 = false) ∧
    exec .clear { State.reset with err := true, ecode := .badRounds } =
      .next (finishCommand (perform .clear { State.reset with err := true, ecode := .badRounds })) :=
  ⟨rfl, by rintro _ ⟨⟩; rfl, by simp, exec_next _ (by decide)⟩

theorem test_witness_FirstErrorIsKept :
    State.reset.err = false ∧ ({ State.reset with err := true, ecode := .busyCmd } : State).err = true ∧
    (transact (.write 0x004 4) State.reset).err = true ∧ isOperand (.tk 5) = true ∧
    isOperand (.blkIn 1) = true ∧ isOperand (.rkHi 0) = true ∧ isOperand (.rkLo 47) = true := by decide +kernel

theorem test_witness_AcknowledgeClearsStatus :
    ({ State.reset with err := true, ecode := .busyCmd } : State).err = true := rfl

theorem test_witness_IrqEnStoresTwoBits :
    ({ State.reset with done := true } : State).done = true ∧ ({ State.reset with done := true } : State).err = false ∧
    ({ State.reset with err := true } : State).err = true ∧ ({ State.reset with err := true } : State).done = false :=
  ⟨rfl, rfl, rfl, rfl⟩

theorem test_witness_IrqIsLevelOfPendingAndEnabled :
    ({ State.reset with done := true, irqEn := 2 } : State).irq = true ∧
    (transact (.write 0x00C 0) { State.reset with done := true, irqEn := 2 }).irq = false ∧
    ({ State.reset with err := true, irqEn := 4 } : State).irq = true ∧
    (transact (.write 0x008 4) { State.reset with err := true, irqEn := 4 }).irq = false ∧
    exec .nop { State.reset with err := true, irqEn := 4 } =
      .next (finishCommand { State.reset with err := true, irqEn := 4 }) := by
  refine ⟨by decide, by decide +kernel, by decide, by decide +kernel, rfl⟩

/-- The ends of the four unmapped ranges, and the mapped offsets beside them. -/
theorem test_witness_RegisterMapIsTheTable :
    (∀ off ∈ [0x010, 0x01C, 0x038, 0x03C, 0x050, 0x0FC, 0x280, 0x3FC], regAt off = none ∧
      (off : Offset).extractLsb 1 0 = 0 ∧
      ((0x010 ≤ off.toNat ∧ off.toNat ≤ 0x01F) ∨ (0x038 ≤ off.toNat ∧ off.toNat ≤ 0x03F) ∨
        (0x050 ≤ off.toNat ∧ off.toNat ≤ 0x0FF) ∨ 0x280 ≤ off.toNat)) ∧
    (∀ off ∈ [0x00C, 0x020, 0x034, 0x040, 0x04C, 0x100, 0x27C], regAt off ≠ none) := by decide +kernel

theorem test_witness_MisalignedTransactionIsRefused :
    ∀ off ∈ [0x001, 0x002, 0x003, 0x009, 0x3FF], (off : Offset).extractLsb 1 0 ≠ 0 := by decide

theorem test_witness_UnmappedTransactionIsRefused :
    ∀ off ∈ [0x010, 0x01C, 0x038, 0x03C, 0x050, 0x0FC, 0x280, 0x3FC], (off : Offset).extractLsb 1 0 = 0 ∧
      ((0x010 ≤ off.toNat ∧ off.toNat ≤ 0x01F) ∨ (0x038 ≤ off.toNat ∧ off.toNat ≤ 0x03F) ∨
        (0x050 ≤ off.toNat ∧ off.toNat ≤ 0x0FF) ∨ 0x280 ≤ off.toNat) := by decide

theorem test_witness_ReadOnlyWriteIsRefused :
    (∀ off ∈ ([0x000, 0x048, 0x04C] : List Offset), off = 0x000 ∨ off = 0x048 ∨ off = 0x04C) ∧
    (transact (.write 0x04C 1) (running .nop [])).reply = some (.write .error) := by decide +kernel

theorem test_witness_ReadReturnsRegisterValue :
    State.reset.lcmd = none ∧
    (transact (.read 0x27C) { State.reset with rk := State.reset.rk.set 47 ⟨1, 2⟩ }).reply =
      some (.read .okay 2) := by decide +kernel

/-- A busy state, and offsets of each clause at the ends of their ranges. -/
theorem test_witness_BusyReadOfResultIsFree :
    (running (.encrypt 48) []).lcmd ≠ none ∧
    regAt (BitVec.ofNat 10 (0x100 + 8 * (0 : Fin 48).val)) = some (.rkHi 0) ∧
    regAt (BitVec.ofNat 10 (0x104 + 8 * (47 : Fin 48).val)) = some (.rkLo 47) ∧
    regAt 0x048 = some (.blkOut 0) ∧ regAt 0x04C = some (.blkOut 1) ∧
    isResult (.tk 5) = false ∧ isResult (.blkIn 1) = false := by decide +kernel

theorem test_witness_IdleOperandWriteReadsBack :
    State.reset.lcmd = none ∧ isOperand (.tk 5) = true ∧ isOperand (.blkIn 0) = true ∧
    isOperand (.rkHi 47) = true ∧ isOperand (.rkLo 0) = true ∧ Reg.rkHi 0 ≠ Reg.rkLo 0 := by decide

theorem test_witness_BusyOperandWriteIsDropped :
    (running .clear []).lcmd ≠ none ∧ BitVec.ofNat 10 (0x020 + 4 * (5 : Fin 6).val) = 0x034 ∧
    BitVec.ofNat 10 (0x100 + 8 * (0 : Fin 48).val) = 0x100 ∧
    BitVec.ofNat 10 (0x104 + 8 * (47 : Fin 48).val) = 0x27C := by decide

theorem test_witness_IssueAcceptsOrRecordsError :
    (running .nop []).lcmd ≠ none ∧ State.reset.lcmd = none ∧ decode 0x00000001 = .error .badVariant ∧
    decode 0x00000002 = .ok (.encrypt 0) := ⟨by decide, rfl, rfl, rfl⟩

/-- One word for each property of R134, one for R135, and `ROUNDS` = 49 and 63 for R136. -/
theorem test_witness_IllegalWordsRaiseTheirCodes :
    State.reset.lcmd = none ∧
    ((0x00004000 : Word32).extractLsb 31 14 ≠ 0 ∧ (0x00000040 : Word32).extractLsb 7 6 ≠ 0 ∧
      4 ≤ ((0x00000004 : Word32).extractLsb 3 0).toNat ∧
      (0x00000010 : Word32).extractLsb 3 0 = 0 ∧ (0x00000010 : Word32).extractLsb 5 4 ≠ 0 ∧
      (0x00000103 : Word32).extractLsb 3 0 = 3 ∧ (0x00000103 : Word32).extractLsb 13 8 ≠ 0 ∧
      (0x00000012 : Word32).extractLsb 3 0 = 2 ∧ (0x00000012 : Word32).extractLsb 5 4 ≠ 0) ∧
    ((0x00003101 : Word32).extractLsb 31 14 = 0 ∧ (0x00003101 : Word32).extractLsb 7 6 = 0 ∧
      (0x00003101 : Word32).extractLsb 3 0 = 1 ∧ (0x00003101 : Word32).extractLsb 5 4 = 0) ∧
    ((0x00003111 : Word32).extractLsb 31 14 = 0 ∧ (0x00003111 : Word32).extractLsb 7 6 = 0 ∧
      (0x00003111 : Word32).extractLsb 3 0 = 1 ∧ (0x00003111 : Word32).extractLsb 5 4 ≠ 0 ∧
      48 < ((0x00003111 : Word32).extractLsb 13 8).toNat) ∧
    ((0x00003F02 : Word32).extractLsb 3 0 = 2 ∧ (0x00003F02 : Word32).extractLsb 5 4 = 0 ∧
      48 < ((0x00003F02 : Word32).extractLsb 13 8).toNat) := by decide

theorem test_witness_WritesOtherThanCommandsAreIdempotent :
    (0x008 : Offset) ≠ 0x004 ∧ (0x27C : Offset) ≠ 0x004 ∧ (0x005 : Offset) ≠ 0x004 := by decide

/-- The round counts 0 and 48 for each EXPAND variant and for ENCRYPT, an entry written and an entry kept. -/
theorem test_witness_ExpandSingleCompletes :
    (0 : BitVec 6).toNat ≤ 48 ∧ (48 : BitVec 6).toNat ≤ 48 ∧ (47 : Fin 48).val < (48 : BitVec 6).toNat ∧
    (0 : BitVec 6).toNat ≤ (0 : Fin 48).val := by decide

theorem test_witness_ExpandDoubleCompletes :
    (36 : BitVec 6).toNat ≤ 48 ∧ (35 : Fin 48).val < (36 : BitVec 6).toNat ∧
    (36 : BitVec 6).toNat ≤ (36 : Fin 48).val := by decide

theorem test_witness_ExpandTripleCompletes :
    (40 : BitVec 6).toNat ≤ 48 ∧ (0 : Fin 48).val < (40 : BitVec 6).toNat ∧
    (40 : BitVec 6).toNat ≤ (47 : Fin 48).val := by decide

theorem test_witness_EncryptCompletes :
    (0 : BitVec 6).toNat ≤ 48 ∧ (48 : BitVec 6).toNat ≤ 48 ∧ 47 < (48 : BitVec 6).toNat := by decide

theorem test_witness_ExpandWritesBackWholeEntries :
    exec (.expandS 1) State.reset = .next (finishCommand (perform (.expandS 1) State.reset)) ∧
    exec (.expandD 48) State.reset = .next (finishCommand (perform (.expandD 48) State.reset)) ∧
    exec (.expandT 2) State.reset = .next (finishCommand (perform (.expandT 2) State.reset)) ∧
    (0 : Fin 48).val < (1 : BitVec 6).toNat ∧ (47 : Fin 48).val < (48 : BitVec 6).toNat ∧
    (2 : BitVec 6).toNat ≤ (2 : Fin 48).val ∧ (8 : Fin 16).val = 8 ∧ 9 ≤ (15 : Fin 16).val :=
  ⟨exec_next _ (by decide), exec_next _ (by decide), exec_next _ (by decide), by decide⟩

theorem test_witness_RoundsAboveTableAreRefused :
    48 < (49 : BitVec 6).toNat ∧ 48 < (63 : BitVec 6).toNat ∧
    refusedFor .roundsAboveTable (exec (.encrypt 49) State.reset) = true := by decide

theorem test_witness_CommandsChangeOnlyTheirResults :
    exec .clear State.reset = .next (finishCommand (perform .clear State.reset)) ∧
    exec .nop State.reset = .next (finishCommand (perform .nop State.reset)) ∧
    exec (.encrypt 48) State.reset = .next (finishCommand (perform (.encrypt 48) State.reset)) ∧
    exec (.expandT 47) State.reset = .next (finishCommand (perform (.expandT 47) State.reset)) ∧
    (Instr.expandT 47).rounds.toNat ≤ (47 : Fin 48).val :=
  ⟨exec_next _ (by decide), exec_next _ (by decide), exec_next _ (by decide), exec_next _ (by decide), by decide⟩

theorem test_witness_TablesHaveTheirShape : 0 < 1 ∧ 1 < 16 ∧ 0 < 15 ∧ 15 < 16 ∧ sbox 0xF = 0xF := by decide

theorem test_witness_LfsrsAreInverse : (0x1 : Nibble) ≠ 0 ∧ (15 : Fin 16).val = 15 := by decide

/-- Two states that agree on `TK[0]`, on `TK[0..3]` and on `TK[0..5]` and differ elsewhere. -/
theorem test_witness_RoundKeysDependOnlyOnTheirTweakeyWords :
    (0 : Fin 48).val < (1 : BitVec 6).toNat ∧
    (keyed 1 2 3 4 5 6).tk[0] = (keyed 1 2 7 7 7 7).tk[0] ∧ (keyed 1 2 3 4 5 6).tk[1] = (keyed 1 2 7 7 7 7).tk[1] ∧
    (keyed 1 2 3 4 5 6).tk[2] = (keyed 1 2 3 4 7 7).tk[2] ∧ (keyed 1 2 3 4 5 6).tk[3] = (keyed 1 2 3 4 7 7).tk[3] ∧
    (keyed 1 2 3 4 5 6).tk[4] = ({ keyed 1 2 3 4 5 6 with blkIn := #v[1, 1] }).tk[4] ∧
    exec (.expandS 1) (keyed 1 2 3 4 5 6) = .next (finishCommand (perform (.expandS 1) (keyed 1 2 3 4 5 6))) ∧
    exec (.expandS 1) (keyed 1 2 7 7 7 7) = .next (finishCommand (perform (.expandS 1) (keyed 1 2 7 7 7 7))) ∧
    exec (.expandD 1) (keyed 1 2 3 4 7 7) = .next (finishCommand (perform (.expandD 1) (keyed 1 2 3 4 7 7))) ∧
    exec (.expandT 1) (keyed 1 2 3 4 5 6) = .next (finishCommand (perform (.expandT 1) (keyed 1 2 3 4 5 6))) :=
  ⟨by decide, rfl, rfl, rfl, rfl, rfl, exec_next _ (by decide), exec_next _ (by decide), exec_next _ (by decide),
    exec_next _ (by decide)⟩

theorem test_witness_SingleRoundKeyZeroIsTheTweakey :
    0 < (1 : BitVec 6).toNat ∧
    exec (.expandS 1) (keyed 1 2 0 0 0 0) = .next (finishCommand (perform (.expandS 1) (keyed 1 2 0 0 0 0))) :=
  ⟨by decide, exec_next _ (by decide)⟩

/-- Four tweakeys, the first two and the last two with the same difference. -/
theorem test_witness_RoundKeysAreAffineInTheTweakey :
    (∀ w : Fin 6, (keyed 1 2 3 4 5 6).tk[w] ^^^ (keyed 0 0 0 0 0 0).tk[w] =
      (keyed 9 10 11 12 13 14).tk[w] ^^^ (keyed 8 8 8 8 8 8).tk[w]) ∧
    exec (.expandT 2) (keyed 1 2 3 4 5 6) = .next (finishCommand (perform (.expandT 2) (keyed 1 2 3 4 5 6))) ∧
    exec (.expandT 2) (keyed 0 0 0 0 0 0) = .next (finishCommand (perform (.expandT 2) (keyed 0 0 0 0 0 0))) ∧
    exec (.expandT 2) (keyed 9 10 11 12 13 14) =
      .next (finishCommand (perform (.expandT 2) (keyed 9 10 11 12 13 14))) ∧
    exec (.expandT 2) (keyed 8 8 8 8 8 8) = .next (finishCommand (perform (.expandT 2) (keyed 8 8 8 8 8 8))) ∧
    (1 : Fin 48).val < (2 : BitVec 6).toNat :=
  ⟨by decide, exec_next _ (by decide), exec_next _ (by decide), exec_next _ (by decide), exec_next _ (by decide),
    by decide⟩

theorem test_witness_ZeroTweakeyRoundKeysAgree :
    (48 : BitVec 6).toNat ≤ 48 ∧ ∀ w : Fin 6, State.reset.tk[w] = 0 := by decide

theorem test_witness_EncryptDependsOnlyOnBlockAndKeys :
    State.reset.blkIn = (keyed 1 2 3 4 5 6).blkIn ∧
    (∀ e : Fin 48, e.val < (1 : BitVec 6).toNat → State.reset.rk[e] = (keyed 1 2 3 4 5 6).rk[e]) ∧
    exec (.encrypt 1) State.reset = .next (finishCommand (perform (.encrypt 1) State.reset)) ∧
    exec (.encrypt 1) (keyed 1 2 3 4 5 6) = .next (finishCommand (perform (.encrypt 1) (keyed 1 2 3 4 5 6))) :=
  ⟨rfl, fun _ _ => rfl, exec_next _ (by decide), exec_next _ (by decide)⟩

theorem test_witness_EncryptIsABijectionOnBlocks : (32 : BitVec 6).toNat ≤ 48 := by decide

theorem test_witness_EveryStepKeepsTheInvariant :
    (running (.encrypt 48) [.engine]).Inv ∧
    step (running (.encrypt 48) [.engine]) = .next (finishCommand (perform (.encrypt 48) (running (.encrypt 48) []))) :=
  ⟨by decide, exec_next (i := .encrypt 48) (running (.encrypt 48) []) (by decide)⟩

/-- A completion of ENCRYPT, a completion of CLEAR and a reset that write `BLK_OUT`. -/
theorem test_witness_OnlyEncryptClearAndResetWriteBlkOut :
    step { running (.encrypt 0) [.engine] with blkIn := #v[1, 0] } =
      .next (finishCommand (perform (.encrypt 0) { running (.encrypt 0) [] with blkIn := #v[1, 0] })) ∧
    (finishCommand (perform (.encrypt 0) { running (.encrypt 0) [] with blkIn := #v[1, 0] })).blkOut ≠ #v[0, 0] ∧
    step { running .clear [] with blkOut := #v[1, 0] } =
      .next (finishCommand (perform .clear { running .clear [] with blkOut := #v[1, 0] })) ∧
    (finishCommand (perform .clear { running .clear [] with blkOut := #v[1, 0] })).blkOut ≠ #v[1, 0] ∧
    step { waiting [.reset] with blkOut := #v[1, 0] } = .next State.reset ∧ State.reset.blkOut ≠ #v[1, 0] := by
  refine ⟨exec_next (i := .encrypt 0) { running (.encrypt 0) [] with blkIn := #v[1, 0] } (by decide), by decide +kernel,
    exec_next (i := .clear) { running .clear [] with blkOut := #v[1, 0] } (by decide), by decide, rfl, by decide⟩

/-- A host write while idle that changes `TK`, one that changes `RK`, and an EXPAND completion that changes `RK`. -/
theorem test_witness_OperandRegistersHaveTheirWriters :
    step (waiting [.host (.write 0x034 1)]) = .next (transact (.write 0x034 1) State.reset) ∧
    (transact (.write 0x034 1) State.reset).tk ≠ State.reset.tk ∧ regAt 0x034 = some (.tk 5) ∧
    step (waiting [.host (.write 0x044 1)]) = .next (transact (.write 0x044 1) State.reset) ∧
    (transact (.write 0x044 1) State.reset).blkIn ≠ State.reset.blkIn ∧ regAt 0x044 = some (.blkIn 1) ∧
    step (waiting [.host (.write 0x27C 1)]) = .next (transact (.write 0x27C 1) State.reset) ∧
    (transact (.write 0x27C 1) State.reset).rk[47] ≠ State.reset.rk[47] ∧ regAt 0x27C = some (.rkLo 47) ∧
    step (running (.expandS 1) []) = .next (finishCommand (perform (.expandS 1) (running (.expandS 1) []))) ∧
    (finishCommand (perform (.expandS 1) (running (.expandS 1) []))).rk[0] ≠ State.reset.rk[0] := by
  refine ⟨rfl, by decide +kernel, by decide +kernel, rfl, by decide +kernel, by decide +kernel, rfl,
    by decide +kernel, by decide +kernel, exec_next (i := .expandS 1) (running (.expandS 1) []) (by decide),
    by decide +kernel⟩

theorem test_witness_OperandsHoldWhileBusy :
    (running .clear [.host (.write 0x020 1), .engine]).lcmd ≠ none ∧
    (running .clear [.host (.write 0x020 1), .engine]).events = [Txn.write 0x020 1].map .host ++ [.engine] ∧
    core.run 1 (running .clear [.host (.write 0x020 1), .engine]) =
      .next (transact (.write 0x020 1) (running .clear [.engine])) :=
  ⟨by decide, rfl, run_next rfl 0⟩

theorem test_witness_AcceptedCommandCompletes :
    (running .nop [.host (.read 0x008), .engine]).Inv ∧ (running .nop [.host (.read 0x008), .engine]).lcmd ≠ none ∧
    (running .nop [.host (.read 0x008), .engine]).NoTxnInReset ∧
    Event.reset ∉ (running .nop [.host (.read 0x008), .engine]).events :=
  ⟨by decide, by decide, by intro t; simp [running], by decide⟩

theorem test_witness_EveryScheduleRunsOn :
    (running (.expandD 36) [.host (.write 0x004 0), .reset]).Inv ∧
    (running (.expandD 36) [.host (.write 0x004 0), .reset]).NoTxnInReset :=
  ⟨by decide, by intro t; simp [running]⟩

end Sys2Proof.Tests
end

section
/-! `STATUS` and `IRQ_EN`: the bits of their words, what each agent does to `DONE`, `ERR` and `ECODE`, and the four
statements of spec/10_state.md about them (R15, R16, R18, R19, R31). -/

namespace Sys2Proof.Machine

/-! ### The `STATUS` word -/

/-- Bit by bit, `STATUS` is `BUSY`, `DONE`, `ERR`, a reserved 0, the code, and reserved zeros (R18). -/
theorem statusWord_getLsbD (s : State) (i : Nat) :
    (statusWord s).getLsbD i =
      if i = 0 then s.busy else if i = 1 then s.done else if i = 2 then s.err
      else if i = 3 then false else s.ecode.code.getLsbD (i - 4) := by
  simp only [statusWord, BitVec.getLsbD_setWidth, BitVec.getLsbD_append, BitVec.getLsbD_ofBool]
  match i with
  | 0 => simp
  | 1 => simp
  | 2 => simp
  | 3 => simp
  | i + 4 =>
    by_cases hi : i < 4
    · simp [hi, show i + 4 < 32 by omega]
    · simp [BitVec.getLsbD_of_ge s.ecode.code i (by omega)]

/-- Bits 7:4 of `STATUS` are the four bits of `ECODE` (R18, R132). -/
theorem statusWord_ecode (s : State) : (statusWord s).extractLsb 7 4 = s.ecode.code := by
  apply BitVec.eq_of_getLsbD_eq
  intro i hi
  have above_flags : 4 + i ≠ 0 ∧ 4 + i ≠ 1 ∧ 4 + i ≠ 2 ∧ 4 + i ≠ 3 := by omega
  rw [BitVec.getLsbD_extractLsb, statusWord_getLsbD]
  simp [above_flags, hi]

/-- Bits 31:8 of `STATUS` read 0 (R18). -/
theorem statusWord_reserved (s : State) : (statusWord s).extractLsb 31 8 = 0 := by
  apply BitVec.eq_of_getLsbD_eq
  intro i _
  have above_flags : 8 + i ≠ 0 ∧ 8 + i ≠ 1 ∧ 8 + i ≠ 2 ∧ 8 + i ≠ 3 := by omega
  have above_code : s.ecode.code.getLsbD (8 + i - 4) = false := BitVec.getLsbD_of_ge _ _ (by omega)
  rw [BitVec.getLsbD_extractLsb, statusWord_getLsbD]
  simp [above_flags, above_code]

/-- `engine_phase` is `Busy` exactly while `BUSY` is 1 (R31). -/
theorem enginePhase_eq_busy (s : State) : s.enginePhase = .busy ↔ s.busy = true := by
  unfold State.enginePhase
  split <;> simp_all

/-! ### What a write of `STATUS` or `IRQ_EN` looks at -/

/-- The two bits that a mask with `0x00000006` keeps. -/
theorem irqEnMask_getLsbD (v : Word32) (i : Nat) :
    (irqEnMask v).getLsbD i = (v.getLsbD i && (i == 1 || i == 2)) := by
  have mask_bits : (0x00000006 : Word32).getLsbD i = (i == 1 || i == 2) := by
    match i with
    | 0 => rfl
    | 1 => rfl
    | 2 => rfl
    | i + 3 =>
      have shifted_out : (0x00000006 : Word32) >>> 3 = 0 := by decide
      calc (0x00000006 : Word32).getLsbD (i + 3)
          = ((0x00000006 : Word32) >>> 3).getLsbD i := by rw [BitVec.getLsbD_ushiftRight, Nat.add_comm]
        _ = (i + 3 == 1 || i + 3 == 2) := by rw [shifted_out]; simp
  rw [irqEnMask, BitVec.getLsbD_and, mask_bits]

/-- An acknowledgement has an effect through bits 1 and 2 of the written value only (R18, R47). -/
theorem acknowledge_irqEnMask (v : Word32) (s : State) : acknowledge (irqEnMask v) s = acknowledge v s := by
  have done_bit : (irqEnMask v).getLsbD 1 = v.getLsbD 1 := by simp only [irqEnMask_getLsbD]; simp
  have err_bit : (irqEnMask v).getLsbD 2 = v.getLsbD 2 := by simp only [irqEnMask_getLsbD]; simp
  rw [acknowledge, acknowledge, done_bit, err_bit]

/-- A read of `IRQ_EN` returns the register, busy or not (R19, R46). -/
theorem transact_read_irqEn (s : State) :
    transact (.read 0x00C) s = respond (.read .okay s.irqEn) s := by
  have mapped : transact (.read 0x00C) s = readMapped .irqEn s := transact_read .irqEn s
  rw [mapped]
  simp [readMapped, isResult, readValue]

/-! ### `DONE`, `ERR` and `ECODE` over a transaction -/

/-- A read changes none of the flags (R46). -/
theorem busRead_flags (off : Offset) (s : State) :
    (busRead off s).done = s.done ∧ (busRead off s).err = s.err ∧ (busRead off s).ecode = s.ecode := by
  obtain ⟨r, n, h⟩ := busRead_eq off s
  simp [h]

/-- A write elsewhere than `STATUS` leaves `DONE`, and a recorded error with its code (R15, R16, R133). -/
theorem busWrite_flags {off : Offset} (h : off ≠ 0x008) (v : Word32) (s : State) :
    (busWrite off v s).done = s.done ∧
      (s.err = true → (busWrite off v s).err = true ∧ (busWrite off v s).ecode = s.ecode) := by
  obtain ⟨r, u, hw, hu⟩ := busWrite_cases off v s
  rw [hw, respond_done, respond_err, respond_ecode]
  obtain rfl | ⟨c, rfl⟩ | ⟨i, -, -, -, rfl⟩ | ⟨hoff, -⟩ | ⟨-, rfl⟩ | ⟨q, -, -, -, rfl⟩ := hu
  · exact ⟨rfl, fun he => ⟨he, rfl⟩⟩
  · exact ⟨raiseError_done c s, fun he => ⟨raiseError_err c s, by rw [raiseError_ecode, if_pos he]⟩⟩
  · exact ⟨rfl, fun he => ⟨he, rfl⟩⟩
  · exact absurd hoff h
  · exact ⟨rfl, fun he => ⟨he, rfl⟩⟩
  · exact ⟨writeReg_done q v s, fun he => ⟨(writeReg_err q v s).trans he, writeReg_ecode q v s⟩⟩

/-- Only a write of `STATUS` takes back a flag: any other transaction leaves `DONE`, and a recorded error with its
code (R15, R16). -/
theorem transact_flags {tx : Txn} (h : ∀ v : Word32, tx ≠ .write 0x008 v) (s : State) :
    (transact tx s).done = s.done ∧
      (s.err = true → (transact tx s).err = true ∧ (transact tx s).ecode = s.ecode) := by
  cases tx with
  | read off =>
    obtain ⟨hdone, herr, hecode⟩ := busRead_flags off s
    exact ⟨hdone, fun he => ⟨herr.trans he, hecode⟩⟩
  | write off v => exact busWrite_flags (fun hoff => h v (by rw [hoff])) v s

/-- A write of `STATUS` clears `DONE` exactly when bit 1 is set (R15). -/
theorem transact_write_status_done (v : Word32) (s : State) :
    (transact (.write 0x008 v) s).done = (s.done && !v.getLsbD 1) := by
  rw [transact_write_status, respond_done, acknowledge_done]
  cases v.getLsbD 1 <;> simp

/-- A write of `STATUS` clears `ERR` exactly when bit 2 is set (R16). -/
theorem transact_write_status_err (v : Word32) (s : State) :
    (transact (.write 0x008 v) s).err = (s.err && !v.getLsbD 2) := by
  rw [transact_write_status, respond_err, acknowledge_err]
  cases v.getLsbD 2 <;> simp

/-- A write of `STATUS` with bit 2 clear leaves `ECODE` (R47). -/
theorem transact_write_status_ecode {v : Word32} (hv : v.getLsbD 2 = false) (s : State) :
    (transact (.write 0x008 v) s).ecode = s.ecode := by
  rw [transact_write_status, respond_ecode, acknowledge_ecode, hv]
  rfl

/-- A recorded error outlasts every transaction that does not write `STATUS` with bit 2 set (R16). -/
theorem transact_keeps_recorded_error {tx : Txn} {s : State} (he : s.err = true)
    (hack : ∀ v : Word32, tx = .write 0x008 v → v.getLsbD 2 = false) :
    (transact tx s).err = true ∧ (transact tx s).ecode = s.ecode := by
  by_cases hstatus : ∃ v : Word32, tx = .write 0x008 v
  · obtain ⟨v, rfl⟩ := hstatus
    have hv := hack v rfl
    exact ⟨by rw [transact_write_status_err, he, hv]; rfl, transact_write_status_ecode hv s⟩
  · exact (transact_flags (not_exists.1 hstatus) s).2 he

/-! ### The flags over a completion -/

/-- Every completion sets `DONE` (R15, R68). -/
theorem exec_done {i : Instr} {s t : State} (h : exec i s = .next t) : t.done = true := by
  obtain ⟨-, rfl⟩ := exec_eq_next.1 h
  exact finishCommand_done _

/-- No completion touches `ERR` or `ECODE` (R16, R68). -/
theorem exec_keeps_error {i : Instr} {s t : State} (h : exec i s = .next t) :
    t.err = s.err ∧ t.ecode = s.ecode := by
  obtain ⟨-, rfl⟩ := exec_eq_next.1 h
  simp

/-! ### The statements -/

/-- Settles O13, from the bits of the status word and the two bits an acknowledgement looks at. -/
theorem statusReadsItsFields : Obligations.StatusReadsItsFields := by
  unfold Obligations.StatusReadsItsFields
  refine ⟨fun s => ⟨statusWord_getLsbD s 0, statusWord_getLsbD s 1, statusWord_getLsbD s 2, statusWord_getLsbD s 3,
    statusWord_ecode s, statusWord_reserved s, (enginePhase_eq_busy s).symm, busy_eq_true s⟩, fun s v => ?_,
    ⟨rfl, rfl, rfl, rfl, rfl, rfl⟩, rfl, rfl⟩
  rw [transact_write_status, transact_write_status]
  exact congrArg (respond (.write .okay)) (acknowledge_irqEnMask v s).symm

/-- Settles O14: completion sets `DONE`, and only a write of `STATUS` or a reset takes it back. -/
theorem doneIsSetByCompletionAndHeld : Obligations.DoneIsSetByCompletionAndHeld := by
  unfold Obligations.DoneIsSetByCompletionAndHeld
  exact ⟨fun _ _ _ h => exec_done h, fun s v => transact_write_status_done v s,
    fun _ s h => (transact_flags h s).1, fun _ => rfl, rfl⟩

/-- Settles O15: a recorded error is kept by every agent but the host's acknowledgement of it and reset. -/
theorem recordedErrorIsHeldUntilCleared : Obligations.RecordedErrorIsHeldUntilCleared := by
  unfold Obligations.RecordedErrorIsHeldUntilCleared
  exact ⟨raiseError_err, fun s v => transact_write_status_err v s,
    fun _ _ he hack => transact_keeps_recorded_error he hack, fun _ _ _ h => exec_keeps_error h, fun _ => rfl, rfl⟩

/-- Settles O18, from the transactions at `IRQ_EN` and the bits of its mask. -/
theorem irqEnStoresTwoBits : Obligations.IrqEnStoresTwoBits := by
  unfold Obligations.IrqEnStoresTwoBits
  refine ⟨fun s v => transact_write_irqEn v s, transact_read_irqEn, fun s v i => ?_, fun s hd he => ?_,
    fun s he hd => ?_, rfl⟩
  · rw [transact_write_irqEn]
    exact irqEnMask_getLsbD v i
  · simp [State.irq, State.doneIe, hd, he]
  · simp [State.irq, State.errIe, hd, he]

end Sys2Proof.Machine
end

section
/-! The refused accesses of the register window and their three statements (R43, R44, R45). -/

namespace Sys2Proof.Machine

/-- A transaction at a misaligned or unmapped offset is answered with `ERROR` and reaches no register (R43, R44). -/
theorem transact_refused {off : Offset} (h : misaligned off = true ∨ regAt off = none) (s : State) :
    transact (.read off) s = respond (.read .error 0) s ∧
      ∀ v : Word32, transact (.write off v) s = respond (.write .error) s := by
  obtain hmis | hnone := h
  · simp [transact, busRead, busWrite, hmis]
  · simp [transact, busRead, busWrite, hnone]

/-- The register map lists offsets of four ranges only (R41). -/
theorem regOffset_mapped (r : Reg) :
    (regOffset r).toNat < 0x010 ∨ (0x020 ≤ (regOffset r).toNat ∧ (regOffset r).toNat < 0x038) ∨
      (0x040 ≤ (regOffset r).toNat ∧ (regOffset r).toNat < 0x050) ∨
      (0x100 ≤ (regOffset r).toNat ∧ (regOffset r).toNat < 0x280) := by
  cases r with
  | id | cmd | status | irqEn => exact .inl (by decide)
  | tk w | blkIn w | blkOut w | rkHi w | rkLo w =>
    rw [regOffset, BitVec.toNat_ofNat]
    omega

/-- No register stands at an offset of the ranges between and above the mapped ones (R41, R44). -/
theorem regAt_eq_none_of_unmapped {off : Offset}
    (h : (0x010 ≤ off.toNat ∧ off.toNat ≤ 0x01F) ∨ (0x038 ≤ off.toNat ∧ off.toNat ≤ 0x03F) ∨
      (0x050 ≤ off.toNat ∧ off.toNat ≤ 0x0FF) ∨ 0x280 ≤ off.toNat) : regAt off = none := by
  cases hr : regAt off with
  | none => rfl
  | some r =>
    have hmapped := regOffset_mapped r
    rw [regOffset_of_regAt hr] at hmapped
    omega

/-- Settles O21: a misaligned offset is refused before the register map is asked. -/
theorem misalignedTransactionIsRefused : Obligations.MisalignedTransactionIsRefused := by
  unfold Obligations.MisalignedTransactionIsRefused
  intro s off hoff
  have hmis : misaligned off = true := decide_eq_true hoff
  exact transact_refused (.inl hmis) s

/-- Settles O22: the register map finds nothing in the unmapped ranges. -/
theorem unmappedTransactionIsRefused : Obligations.UnmappedTransactionIsRefused := by
  unfold Obligations.UnmappedTransactionIsRefused
  exact fun s _ _ hrange => transact_refused (.inr (regAt_eq_none_of_unmapped hrange)) s

/-- Settles O23: the three offsets are those of `ID`, `BLK_OUT[0]` and `BLK_OUT[1]`, which a write never reaches. -/
theorem readOnlyWriteIsRefused : Obligations.ReadOnlyWriteIsRefused := by
  unfold Obligations.ReadOnlyWriteIsRefused
  rintro s off v (rfl | rfl | rfl)
  · exact transact_write .id v s
  · exact transact_write (.blkOut 0) v s
  · exact transact_write (.blkOut 1) v s

end Sys2Proof.Machine
end

section
/-! Issuing a command: the three answers of `Issue(w)`, one equation each, and the statement that a `CMD` write is one
of them (R67, R138). -/

namespace Sys2Proof.Machine

/-- While busy the word is not looked at, and `BUSY_CMD` is raised (R67, R138). -/
theorem issue_of_busy {s : State} (h : s.lcmd ≠ none) (w : Word32) : issue w s = raiseError .busyCmd s :=
  if_pos ((busy_eq_true s).2 h)

/-- While idle a word the decoder rejects raises its code (R67). -/
theorem issue_of_error {s : State} {w : Word32} {c : ErrCode} (h : s.lcmd = none) (hw : decode w = .error c) :
    issue w s = raiseError c s := by
  simp [issue, (busy_eq_false s).2 h, hw]

/-- While idle a legal word is latched (R67). -/
theorem issue_of_ok {s : State} {w : Word32} {i : Instr} (h : s.lcmd = none) (hw : decode w = .ok i) :
    issue w s = { s with lcmd := some i } := by
  simp [issue, (busy_eq_false s).2 h, hw]

/-- Recording an error and answering the host, as one record update (R133). -/
theorem respond_raiseError (r : Reply) (c : ErrCode) (s : State) :
    respond r (raiseError c s) =
      { s with err := true, ecode := if s.err then s.ecode else c, reply := some r } := by
  rw [raiseError_eq, respond]

/-- Settles O29: a `CMD` write answers OKAY with what `Issue(w)` leaves, busy, rejected or accepted. -/
theorem issueAcceptsOrRecordsError : Obligations.IssueAcceptsOrRecordsError := by
  unfold Obligations.IssueAcceptsOrRecordsError
  intro s w
  rw [transact_write_cmd]
  refine ⟨fun hbusy => ?busy, fun hidle c hc => ?rejected, fun hidle i hi => ?accepted⟩
  case busy => rw [issue_of_busy hbusy, respond_raiseError]
  case rejected => rw [issue_of_error hidle hc, respond_raiseError]
  case accepted =>
    rw [issue_of_ok hidle hi]
    exact ⟨rfl, rfl⟩

end Sys2Proof.Machine
end

section
/-! The key schedule: the cells of its round steps, the bits of its two registers, what its write-back leaves in the
store, and the four statements about them (R82 to R90). -/

namespace Sys2Proof.Machine

/-! ### The cells of one round -/

theorem extractActive_single (t0 : Nib16) (i : Fin 16) :
    (extractActive (.single t0))[i] = if i.val < 8 then t0[i] else 0 := by
  simp [extractActive]

theorem extractActive_double (t0 t1 : Nib16) (i : Fin 16) :
    (extractActive (.double t0 t1))[i] = if i.val < 8 then t0[i] ^^^ t1[i] else 0 := by
  simp [extractActive]

theorem extractActive_triple (t0 t1 t2 : Nib16) (i : Fin 16) :
    (extractActive (.triple t0 t1 t2))[i] = if i.val < 8 then t0[i] ^^^ t1[i] ^^^ t2[i] else 0 := by
  simp [extractActive]

/-- Only cells 0 to 7 are extracted, from however many words (R82). -/
theorem extractActive_eq_zero (t : TweakeyState) {i : Fin 16} (hi : 8 ≤ i.val) : (extractActive t)[i] = 0 := by
  have inactive : ¬ i.val < 8 := Nat.not_lt.2 hi
  cases t with
  | single t0 => rw [extractActive_single, if_neg inactive]
  | double t0 t1 => rw [extractActive_double, if_neg inactive]
  | triple t0 t1 t2 => rw [extractActive_triple, if_neg inactive]

/-- Masking with `0xF` and dropping the high bits selects bits 3:0 of a byte (R83). -/
theorem lowNibble_eq (b : Byte) : (b &&& 0xF).setWidth 4 = b.extractLsb' 0 4 := by
  apply BitVec.eq_of_getLsbD_eq
  intro j hj
  interval_cases j <;> simp

/-- Shifting first selects bits 7:4 (R83). -/
theorem highNibble_eq (b : Byte) : ((b >>> 4) &&& 0xF).setWidth 4 = b.extractLsb' 4 4 := by
  rw [lowNibble_eq]
  apply BitVec.eq_of_getLsbD_eq
  intro j hj
  simp [hj]

/-- The constants of round `r` are the two nibbles of `RC[r]` in cells 0 and 4, and 0x2 in cell 8 (R83). -/
theorem injectConstants_cell (r : Fin 48) (k : Nib16) (i : Fin 16) :
    (injectConstants r k)[i] =
      if i = 0 then k[i] ^^^ rcTable[r].extractLsb' 0 4 else if i = 4 then k[i] ^^^ rcTable[r].extractLsb' 4 4
      else if i = 8 then k[i] ^^^ 0x2 else k[i] := by
  rw [← lowNibble_eq, ← highNibble_eq]
  simp [injectConstants]

theorem updateWord_rows01_cell (f : Nibble → Nibble) (w : Nib16) (i : Fin 16) :
    (updateWord .rows01 f w)[i] = if i.val < 8 then f w[i] else w[i] := by
  simp [updateWord, inCells]

/-! ### The bits of the two registers -/

/-- `LFSR2(x) = x[2] ∥ x[1] ∥ x[0] ∥ (x[3] ^ x[2])` (R85). -/
theorem lfsr2_bits (x : Nibble) :
    (lfsr2 x).getLsbD 3 = x.getLsbD 2 ∧ (lfsr2 x).getLsbD 2 = x.getLsbD 1 ∧
      (lfsr2 x).getLsbD 1 = x.getLsbD 0 ∧ (lfsr2 x).getLsbD 0 = (x.getLsbD 3 ^^ x.getLsbD 2) := by
  refine ⟨?_, ?_, ?_, ?_⟩ <;> simp [lfsr2]

/-- `LFSR3(x) = (x[3] ^ x[0]) ∥ x[3] ∥ x[2] ∥ x[1]` (R86). -/
theorem lfsr3_bits (x : Nibble) :
    (lfsr3 x).getLsbD 3 = (x.getLsbD 3 ^^ x.getLsbD 0) ∧ (lfsr3 x).getLsbD 2 = x.getLsbD 3 ∧
      (lfsr3 x).getLsbD 1 = x.getLsbD 2 ∧ (lfsr3 x).getLsbD 0 = x.getLsbD 1 := by
  refine ⟨?_, ?_, ?_, ?_⟩ <;> simp [lfsr3]

/-! ### The round keys and their write-back -/

/-- Cell 8 of every round key is the third constant (R83, R90). -/
theorem roundKey_cell_eight (sc : LfsrScope) (t : TweakeyState) (e : Fin 48) :
    (roundKey sc t e)[(8 : Fin 16)] = 0x2 := by
  rw [roundKey, injectConstants_cell, extractActive_eq_zero _ (by decide)]
  rfl

/-- Cells 9 to 15 of every round key are 0: nothing is extracted there and no constant is added (R90). -/
theorem roundKey_eq_zero (sc : LfsrScope) (t : TweakeyState) (e : Fin 48) {i : Fin 16} (hi : 9 ≤ i.val) :
    (roundKey sc t e)[i] = 0 := by
  obtain ⟨h0, h4, h8⟩ : i ≠ 0 ∧ i ≠ 4 ∧ i ≠ 8 := by omega
  rw [roundKey, injectConstants_cell, if_neg h0, if_neg h4, if_neg h8, extractActive_eq_zero _ (by omega)]

/-- The nibbles of a packed round-key entry are the cells it was packed from (R90). -/
theorem packEntry_nib (k : Nib16) (i : Fin 16) : nib (packEntry k).word i = k[i] := nib_pack k i

/-- An entry below `R` holds all 16 nibbles of its round key (R90). -/
theorem expandStore_nib (sc : LfsrScope) (t : TweakeyState) {R : BitVec 6} (rk : Vector RkEntry 48) {e : Fin 48}
    (he : e.val < R.toNat) (i : Fin 16) : nib (expandStore sc t R rk)[e].word i = (roundKey sc t e)[i] := by
  rw [expandStore_getElem, if_pos he, packEntry_nib]

/-- An entry from `R` on keeps its value (R90). -/
theorem expandStore_kept (sc : LfsrScope) (t : TweakeyState) {R : BitVec 6} (rk : Vector RkEntry 48) {e : Fin 48}
    (he : R.toNat ≤ e.val) : (expandStore sc t R rk)[e] = rk[e] := by
  rw [expandStore_getElem, if_neg (Nat.not_lt.2 he)]

/-- With no rounds every entry is kept (R89). -/
theorem expandStore_zero (sc : LfsrScope) (t : TweakeyState) (rk : Vector RkEntry 48) :
    expandStore sc t 0 rk = rk := by
  ext1 e he
  exact expandStore_kept sc t rk (e := ⟨e, he⟩) (Nat.zero_le e)

/-- With no rounds the key schedule leaves the state as it is (R89). -/
theorem keySchedule_zero (sc : LfsrScope) (t : TweakeyState) (s : State) : keySchedule sc t 0 s = s := by
  rw [keySchedule, expandStore_zero]

/-- The end of a command leaves the round-key store as `Perform` left it (R68, R69). -/
theorem exec_rk {i : Instr} {s t : State} (h : exec i s = .next t) : t.rk = (perform i s).rk := by
  obtain ⟨-, rfl⟩ := exec_eq_next.1 h
  rfl

/-- Whatever the variant, a completed EXPAND leaves the expansion of some tweakey state in the store, and `TK` as it
was (R80, R90). -/
theorem exec_expand_next {R : BitVec 6} {s t : State}
    (h : exec (.expandS R) s = .next t ∨ exec (.expandD R) s = .next t ∨ exec (.expandT R) s = .next t) :
    (∃ T : TweakeyState, t.rk = expandStore .all16 T R s.rk) ∧ t.tk = s.tk := by
  obtain h | h | h := h <;> obtain ⟨-, rfl⟩ := exec_eq_next.1 h <;> exact ⟨⟨_, rfl⟩, rfl⟩

/-! ### The statements -/

/-- Settles O40: the entries below `R` are packed round keys, whose cells 8 to 15 no tweakey word reaches. -/
theorem expandWritesBackWholeEntries : Obligations.ExpandWritesBackWholeEntries := by
  unfold Obligations.ExpandWritesBackWholeEntries
  intro R s t
  refine ⟨fun h e he i => ?single, fun h e he i => ?double, fun h e he i => ?triple, fun h => ?every_variant⟩
  case single => exact exec_rk h ▸ expandStore_nib _ _ _ he i
  case double => exact exec_rk h ▸ expandStore_nib _ _ _ he i
  case triple => exact exec_rk h ▸ expandStore_nib _ _ _ he i
  case every_variant =>
    obtain ⟨⟨T, hrk⟩, htk⟩ := exec_expand_next h
    rw [hrk]
    refine ⟨fun e he i => ⟨fun h8 => ?_, fun h9 => ?_⟩, fun e he => expandStore_kept _ _ _ he, htk⟩
    · obtain rfl : i = 8 := Fin.ext h8
      rw [expandStore_nib _ _ _ he, roundKey_cell_eight]
    · rw [expandStore_nib _ _ _ he, roundKey_eq_zero _ _ _ h9]

/-- Settles O38: with no rounds the key schedule is the identity, and only the end of the command is left. -/
theorem expandZeroRoundsWritesNothing : Obligations.ExpandZeroRoundsWritesNothing := by
  unfold Obligations.ExpandZeroRoundsWritesNothing
  intro s
  have completes (t : TweakeyState) :
      performRounds 0 (keySchedule lfsrScope t 0) s = .next { s with lcmd := none, done := true } := by
    rw [performRounds_next _ _ (by decide), keySchedule_zero, finishCommand]
  exact ⟨completes _, completes _, completes _⟩

/-- Settles O43: the bits of each map, and its table by evaluation on the 16 nibbles. -/
theorem lfsrsAreTheirTables : Obligations.LfsrsAreTheirTables := by
  unfold Obligations.LfsrsAreTheirTables
  exact ⟨lfsr2_bits, lfsr3_bits, by decide, by decide⟩

/-- Settles O44, from the cells of each step of a round. -/
theorem keyScheduleRoundSteps : Obligations.KeyScheduleRoundSteps := by
  unfold Obligations.KeyScheduleRoundSteps
  refine ⟨fun t0 t1 t2 i => ⟨extractActive_single t0 i, extractActive_double t0 t1 i, extractActive_triple t0 t1 t2 i⟩,
    injectConstants_cell, fun w p => permuteWord_getElem w p p.isLt, fun t0 t1 t2 => ?updates, updateWord_rows01_cell⟩
  have updated (f : Nibble → Nibble) (w : Nib16) (i : Fin 16) : (updateWord .all16 f w)[i] = f w[i] :=
    updateWord_all16_getElem f w i i.isLt
  exact ⟨⟨_, rfl, rfl⟩, ⟨_, _, rfl, rfl, updated lfsr2 _⟩, ⟨_, _, _, rfl, rfl, updated lfsr2 _, updated lfsr3 _⟩⟩

end Sys2Proof.Machine
end

section
/-! The four steps of a round of the block transform, cell by cell (R104 to R107). -/

namespace Sys2Proof.Machine

/-! ### ShiftRows -/

@[simp] theorem shiftRows_getElem (st : Nib16) (i : Nat) (h : i < 16) : (shiftRows st)[i] = st[sr[i]] := by
  simp [shiftRows]

/-- The table `SR` rotates row `row` right by `row` cells (R34). -/
theorem sr_row_col (row col : Fin 4) :
    (sr[4 * row.val + col.val]).val = 4 * row.val + (col.val + 4 - row.val) % 4 := by
  revert row col
  decide

/-- Row `row` of the new state is the old row rotated right by `row` cells (R106). -/
theorem shiftRows_row_col (st : Nib16) (row col : Fin 4) :
    (shiftRows st)[4 * row.val + col.val] = st[4 * row.val + (col.val + 4 - row.val) % 4] := by
  simp [sr_row_col]

/-! ### MixColumns -/

section
variable (st : Nib16) (col : Fin 4)

/-- The new row 3 is `a ^ c` (R107). -/
theorem mixColumns_row_three : (mixColumns st)[12 + col.val] = st[col.val] ^^^ st[8 + col.val] := by
  have hrow : (12 + col.val) / 4 = 3 := by omega
  have hcol : (12 + col.val) % 4 = col.val := by omega
  simp only [mixColumns, Vector.getElem_ofFn, hrow, hcol]
  rfl

/-- The new row 2 is `b ^ c` (R107). -/
theorem mixColumns_row_two : (mixColumns st)[8 + col.val] = st[4 + col.val] ^^^ st[8 + col.val] := by
  have hrow : (8 + col.val) / 4 = 2 := by omega
  have hcol : (8 + col.val) % 4 = col.val := by omega
  simp only [mixColumns, Vector.getElem_ofFn, hrow, hcol]
  rfl

/-- The new row 1 is `a` (R107). -/
theorem mixColumns_row_one : (mixColumns st)[4 + col.val] = st[col.val] := by
  have hrow : (4 + col.val) / 4 = 1 := by omega
  have hcol : (4 + col.val) % 4 = col.val := by omega
  simp only [mixColumns, Vector.getElem_ofFn, hrow, hcol]
  rfl

/-- The new row 0 is `d` and the new row 3, not the old one (R107). -/
theorem mixColumns_row_zero : (mixColumns st)[col.val] = st[12 + col.val] ^^^ (mixColumns st)[12 + col.val] := by
  have hrow : col.val / 4 = 0 := by omega
  have hcol : col.val % 4 = col.val := by omega
  rw [mixColumns_row_three]
  simp only [mixColumns, Vector.getElem_ofFn, hrow, hcol, ↓reduceIte]

end

/-! ### The statement -/

/-- Settles O45, from the cells of each step. -/
theorem blockRoundSteps : Obligations.BlockRoundSteps := by
  unfold Obligations.BlockRoundSteps
  exact ⟨fun st i => subCells_getElem st i i.isLt, fun k st i => addRoundKey_getElem k st i i.isLt,
    fun st row col => ⟨shiftRows_row_col st row col, shiftRows_getElem st _ _⟩,
    fun st col => ⟨mixColumns_row_three st col, mixColumns_row_two st col, mixColumns_row_one st col,
      mixColumns_row_zero st col⟩⟩

end Sys2Proof.Machine
end

section
/-! Recording an error and acknowledging it: which transactions answer OKAY, and the two statements about
`raise Error` and the write of `STATUS` (R133, R143). -/

namespace Sys2Proof.Machine

/-- `raise Error` over a recorded error changes nothing (R133). -/
theorem raiseError_of_err {s : State} (h : s.err = true) (c : ErrCode) : raiseError c s = s := if_pos h

/-- An acknowledgement as one record update (R47, R143). -/
theorem acknowledge_eq (v : Word32) (s : State) :
    acknowledge v s =
      { s with
        done := s.done && !v.getLsbD 1
        err := s.err && !v.getLsbD 2
        ecode := if v.getLsbD 2 then .noError else s.ecode } := by
  have cleared (bit flag : Bool) : (if bit then false else flag) = (flag && !bit) := by cases bit <;> simp
  rw [acknowledge, cleared, cleared]

/-- A write to a mapped register is refused or answers OKAY (R45, R47). -/
theorem writeMapped_refused_or_okay (r : Reg) (v : Word32) (s : State) :
    writeMapped r v s = respond (.write .error) s ∨ (writeMapped r v s).reply = some (.write .okay) := by
  cases r with
  | id | blkOut => exact .inl rfl
  | cmd | status | irqEn | tk | blkIn | rkHi | rkLo => exact .inr rfl

/-- Any write is refused or answers OKAY (R40, R43 to R47). -/
theorem busWrite_refused_or_okay (off : Offset) (v : Word32) (s : State) :
    busWrite off v s = respond (.write .error) s ∨ (busWrite off v s).reply = some (.write .okay) := by
  unfold busWrite
  split
  · exact .inl rfl
  · split
    · exact .inl rfl
    · exact writeMapped_refused_or_okay _ v s

/-- The transaction in which an error comes to be recorded answers OKAY: a read records none, and a refused write
changes nothing (R133). -/
theorem transact_okay_of_error_recorded {t : Txn} {s : State} (hbefore : s.err = false)
    (hafter : (transact t s).err = true) : (transact t s).reply = some (.write .okay) := by
  cases t with
  | read off =>
    have herr : (transact (.read off) s).err = s.err := (busRead_flags off s).2.1
    simp [herr, hbefore] at hafter
  | write off v =>
    obtain hrefused | hokay := busWrite_refused_or_okay off v s
    · have herr : (transact (.write off v) s).err = s.err := (congrArg State.err hrefused :)
      simp [herr, hbefore] at hafter
    · exact hokay

/-- Settles O16: `raise Error` is one record update, and only a write that is not refused records an error. -/
theorem firstErrorIsKept : Obligations.FirstErrorIsKept := by
  unfold Obligations.FirstErrorIsKept
  refine ⟨fun c s h => ?first, fun c s h => raiseError_of_err h c,
    fun _ _ hbefore hafter => transact_okay_of_error_recorded hbefore hafter, fun r v s hr => ?okay⟩
  case first => simp [raiseError_eq, h]
  case okay =>
    obtain rfl | hop := hr
    · rw [transact_write]; rfl
    · rw [transact_write_operand hop]; rfl

/-- Settles O17: a write of `STATUS` is the acknowledgement and its answer. -/
theorem acknowledgeClearsStatus : Obligations.AcknowledgeClearsStatus := by
  unfold Obligations.AcknowledgeClearsStatus
  refine ⟨fun s v => ?_, fun c s h => raiseError_of_err h c⟩
  rw [transact_write_status, acknowledge_eq, respond]

end Sys2Proof.Machine
end

section
/-! The interrupt output: its formula, the two writes over which it can fall, and the statement (R146). -/

namespace Sys2Proof.Machine

/-- `irq` is asserted by a pending bit whose enable bit is set (R146). -/
theorem irq_iff (s : State) :
    s.irq = true ↔ (s.done = true ∧ s.irqEn.getLsbD 1 = true) ∨ (s.err = true ∧ s.irqEn.getLsbD 2 = true) := by
  simp [State.irq, State.doneIe, State.errIe]

/-- Only a write of `IRQ_EN` changes `IRQ_EN` over a transaction (R19). -/
theorem transact_irqEn {tx : Txn} (h : ∀ v : Word32, tx ≠ .write 0x00C v) (s : State) :
    (transact tx s).irqEn = s.irqEn := by
  cases tx with
  | read off =>
    obtain ⟨r, n, hr⟩ := busRead_eq off s
    rw [transact, hr]
  | write off v =>
    obtain ⟨r, u, hw, hu⟩ := busWrite_cases off v s
    rw [transact, hw, respond_irqEn]
    obtain rfl | ⟨c, rfl⟩ | ⟨i, -, -, -, rfl⟩ | ⟨-, rfl⟩ | ⟨hoff, -⟩ | ⟨q, -, -, -, rfl⟩ := hu
    · rfl
    · exact raiseError_irqEn c s
    · rfl
    · exact acknowledge_irqEn v s
    · exact absurd (by rw [hoff]) (h v)
    · exact writeReg_irqEn q v s

/-- `irq` outlasts every transaction but the writes of `STATUS` and `IRQ_EN` (R146). -/
theorem transact_keeps_irq {tx : Txn} {s : State} (hstatus : ∀ v : Word32, tx ≠ .write 0x008 v)
    (hirqEn : ∀ v : Word32, tx ≠ .write 0x00C v) (h : s.irq = true) : (transact tx s).irq = true := by
  obtain ⟨hdone, herr⟩ := transact_flags hstatus s
  rw [irq_iff] at h ⊢
  rw [hdone, transact_irqEn hirqEn]
  exact h.imp_right fun ⟨he, hie⟩ => ⟨(herr he).1, hie⟩

/-- `irq` after a write of `STATUS`: a pending bit that the write does not clear, with its enable bit (R143, R146). -/
theorem transact_write_status_irq (v : Word32) (s : State) :
    (transact (.write 0x008 v) s).irq = true ↔
      (s.done = true ∧ s.irqEn.getLsbD 1 = true ∧ v.getLsbD 1 = false) ∨
        (s.err = true ∧ s.irqEn.getLsbD 2 = true ∧ v.getLsbD 2 = false) := by
  rw [irq_iff, transact_write_status_done, transact_write_status_err, transact_irqEn (by simp)]
  simp [and_assoc, and_comm]

/-- `irq` after a write of `IRQ_EN`: a pending bit whose enable bit the write sets (R19, R146). -/
theorem transact_write_irqEn_irq (v : Word32) (s : State) :
    (transact (.write 0x00C v) s).irq = true ↔
      (s.done = true ∧ v.getLsbD 1 = true) ∨ (s.err = true ∧ v.getLsbD 2 = true) := by
  simp only [irq_iff, transact_write_irqEn, respond_done, respond_err, respond_irqEn, irqEnMask_getLsbD]
  simp

/-- No completion takes `irq` back: it sets `DONE` and leaves `ERR` and `IRQ_EN` (R68, R146). -/
theorem exec_keeps_irq {i : Instr} {s t : State} (h : exec i s = .next t) (hirq : s.irq = true) : t.irq = true := by
  have hdone := exec_done h
  obtain ⟨herr, -⟩ := exec_keeps_error h
  have hirqEn : t.irqEn = s.irqEn := by
    obtain ⟨-, rfl⟩ := exec_eq_next.1 h
    simp
  rw [irq_iff] at hirq ⊢
  rw [hdone, herr, hirqEn]
  exact hirq.imp_left fun ⟨_, hie⟩ => ⟨rfl, hie⟩

/-- Settles O19: where `irq` falls over a transaction, the transaction writes `STATUS` or `IRQ_EN`, and the asserting
bit is among those it clears. -/
theorem irqIsLevelOfPendingAndEnabled : Obligations.IrqIsLevelOfPendingAndEnabled := by
  unfold Obligations.IrqIsLevelOfPendingAndEnabled
  refine ⟨irq_iff, fun tx s hirq hfall => ?falls, fun _ _ _ h hirq => exec_keeps_irq h hirq, fun _ => rfl⟩
  rw [← Bool.not_eq_true] at hfall
  have asserting := (irq_iff s).1 hirq
  by_cases hstatus : ∃ v : Word32, tx = .write 0x008 v
  · obtain ⟨v, rfl⟩ := hstatus
    rw [transact_write_status_irq] at hfall
    refine ⟨v, .inl ⟨rfl, asserting.imp (fun ⟨hd, hie⟩ => ⟨hd, hie, ?_⟩) fun ⟨he, hie⟩ => ⟨he, hie, ?_⟩⟩⟩
    · simpa using fun hv => hfall (.inl ⟨hd, hie, hv⟩)
    · simpa using fun hv => hfall (.inr ⟨he, hie, hv⟩)
  by_cases hirqEn : ∃ v : Word32, tx = .write 0x00C v
  · obtain ⟨v, rfl⟩ := hirqEn
    rw [transact_write_irqEn_irq] at hfall
    refine ⟨v, .inr ⟨rfl, asserting.imp (fun ⟨hd, hie⟩ => ⟨hd, hie, ?_⟩) fun ⟨he, hie⟩ => ⟨he, hie, ?_⟩⟩⟩
    · simpa using fun hv => hfall (.inl ⟨hd, hv⟩)
    · simpa using fun hv => hfall (.inr ⟨he, hv⟩)
  · exact absurd (transact_keeps_irq (not_exists.1 hstatus) (not_exists.1 hirqEn) hirq) hfall

end Sys2Proof.Machine
end

section
/-! A write to an operand register while busy, and its statement (R50, R137). -/

namespace Sys2Proof.Machine

/-- While busy a write to an operand register only records `BUSY_WRITE` and answers OKAY (R50, R137). -/
theorem transact_write_operand_busy {r : Reg} {s : State} (hr : isOperand r = true) (hbusy : s.lcmd ≠ none)
    (v : Word32) :
    transact (.write (regOffset r) v) s =
      { s with err := true, ecode := if s.err then s.ecode else .busyWrite, reply := some (.write .okay) } := by
  obtain ⟨-, hdropped⟩ | ⟨hidle, -⟩ := writeOperand_cases r v s
  · rw [transact_write_operand hr, hdropped, respond_raiseError]
  · exact absurd hidle hbusy

/-- Settles O28: each of the offsets is that of an operand register. -/
theorem busyOperandWriteIsDropped : Obligations.BusyOperandWriteIsDropped := by
  unfold Obligations.BusyOperandWriteIsDropped
  rintro s off v hbusy (⟨w, rfl⟩ | rfl | rfl | ⟨e, rfl | rfl⟩)
  · exact transact_write_operand_busy (r := .tk w) rfl hbusy v
  · exact transact_write_operand_busy (r := .blkIn 0) rfl hbusy v
  · exact transact_write_operand_busy (r := .blkIn 1) rfl hbusy v
  · exact transact_write_operand_busy (r := .rkHi e) rfl hbusy v
  · exact transact_write_operand_busy (r := .rkLo e) rfl hbusy v

end Sys2Proof.Machine
end

section
/-! The words that the decoder rejects, one lemma per cause in the fields of R61, and the statement that a `CMD` write
of such a word records its code (R66, R134 to R136). -/

namespace Sys2Proof.Machine

section
variable {w : Word32}

/-- A reserved bit that is set is looked at first (R66, R134). -/
theorem decode_of_reserved_bit (h : rsv1Field w ≠ 0 ∨ rsv0Field w ≠ 0) : decode w = .error .illegalCmd := if_pos h

/-- A reserved opcode (R62, R134). -/
theorem decode_of_reserved_op (h : 4 ≤ (opField w).toNat) : decode w = .error .illegalCmd := by
  have other (op : BitVec 4) (hop : op.toNat < 4) : opField w ≠ op := fun heq => by rw [heq] at h; omega
  by_cases hr : rsv1Field w ≠ 0 ∨ rsv0Field w ≠ 0
  · exact decode_of_reserved_bit hr
  · rw [decode, if_neg hr, if_neg (other 0x0 (by decide)), if_neg (other 0x1 (by decide)),
      if_neg (other 0x2 (by decide)), if_neg (other 0x3 (by decide))]

/-- NOP or CLEAR with `VAR` or `ROUNDS` set (R134). -/
theorem decode_of_control_operand (hop : opField w = 0x0 ∨ opField w = 0x3)
    (h : varField w ≠ 0 ∨ roundsField w ≠ 0) : decode w = .error .illegalCmd := by
  obtain hop | hop := hop <;> simp_all [decode]

/-- ENCRYPT with `VAR` set (R134). -/
theorem decode_of_encrypt_var (hop : opField w = 0x2) (h : varField w ≠ 0) : decode w = .error .illegalCmd := by
  simp_all [decode]

/-- EXPAND with `VAR` clear, before its round count is looked at (R66, R135). -/
theorem decode_of_expand_no_var (h1 : rsv1Field w = 0) (h0 : rsv0Field w = 0) (hop : opField w = 0x1)
    (h : varField w = 0) : decode w = .error .badVariant := by
  simp [decode, h1, h0, hop, h]

/-- EXPAND or ENCRYPT, otherwise well formed, with more rounds than the store has entries (R136). -/
theorem decode_of_rounds_above (h1 : rsv1Field w = 0) (h0 : rsv0Field w = 0)
    (hop : (opField w = 0x1 ∧ varField w ≠ 0) ∨ (opField w = 0x2 ∧ varField w = 0))
    (h : Config.maxRounds < (roundsField w).toNat) : decode w = .error .badRounds := by
  obtain ⟨hop, hvar⟩ | ⟨hop, hvar⟩ := hop <;> simp_all [decode]

/-- While idle, a `CMD` write of a word that the decoder rejects records its code and answers OKAY (R67). -/
theorem transact_write_cmd_rejected {s : State} {c : ErrCode} (hidle : s.lcmd = none) (hw : decode w = .error c) :
    transact (.write 0x004 w) s =
      { s with err := true, ecode := if s.err then s.ecode else c, reply := some (.write .okay) } := by
  rw [transact_write_cmd, issue_of_error hidle hw, respond_raiseError]

end

/-- Settles O30: each cause is one of the decoder's checks, in the order of R66. -/
theorem illegalWordsRaiseTheirCodes : Obligations.IllegalWordsRaiseTheirCodes := by
  unfold Obligations.IllegalWordsRaiseTheirCodes
  refine fun s w hidle => ⟨fun h => transact_write_cmd_rejected hidle ?illegal,
    fun ⟨h1, h0, hop, hvar⟩ => transact_write_cmd_rejected hidle (decode_of_expand_no_var h1 h0 hop hvar),
    fun ⟨h1, h0, hop, hrounds⟩ => transact_write_cmd_rejected hidle (decode_of_rounds_above h1 h0 hop hrounds)⟩
  obtain h | h | h | ⟨hop, h⟩ | ⟨hop, h⟩ := h
  · exact decode_of_reserved_bit (.inl h)
  · exact decode_of_reserved_bit (.inr h)
  · exact decode_of_reserved_op h
  · exact decode_of_control_operand hop h
  · exact decode_of_encrypt_var hop h

end Sys2Proof.Machine
end

section
/-! The reset step, register by register, and its statement (R160). -/

namespace Sys2Proof.Machine

/-- `STATUS` sees only fields that the reset sets, so it reads 0 as in the reset state (R18, R160). -/
theorem statusWord_resetStep (s : State) : statusWord (resetStep s) = 0 :=
  calc statusWord (resetStep s) = statusWord State.reset := rfl
    _ = 0 := rfl

/-- After a reset every register of the window but the constant `ID` reads 0, whatever it held (R160). -/
theorem readValue_resetStep {r : Reg} (h : r ≠ .id) (s : State) : readValue r (resetStep s) = 0 := by
  cases r with
  | id => exact absurd rfl h
  | cmd | irqEn => rfl
  | status => exact statusWord_resetStep s
  | tk w => exact Vector.getElem_replicate w.isLt
  | blkIn k | blkOut k => exact Vector.getElem_replicate k.isLt
  | rkHi e => exact congrArg RkEntry.hi (Vector.getElem_replicate e.isLt)
  | rkLo e => exact congrArg RkEntry.lo (Vector.getElem_replicate e.isLt)

@[simp] theorem resetStep_lcmd (s : State) : (resetStep s).lcmd = none := rfl
@[simp] theorem resetStep_done (s : State) : (resetStep s).done = false := rfl
@[simp] theorem resetStep_err (s : State) : (resetStep s).err = false := rfl

/-- With no command latched the engine is `Idle` (R31). -/
theorem enginePhase_of_lcmd_none {s : State} (h : s.lcmd = none) : s.enginePhase = .idle := by
  simp [State.enginePhase, State.busy, h]

/-- With no pending bit `irq` is 0 (R146). -/
theorem irq_of_not_pending {s : State} (hdone : s.done = false) (herr : s.err = false) : s.irq = false := by
  simp [State.irq, hdone, herr]

/-- Settles O10: each register is one read after the reset, and `engine_phase` and `irq` follow from `LCMD` and the
flags. -/
theorem resetStepZeroesEveryRegister : Obligations.ResetStepZeroesEveryRegister := by
  unfold Obligations.ResetStepZeroesEveryRegister
  intro s
  have zero {r : Reg} (h : r ≠ .id) : readValue r (resetStep s) = 0 := readValue_resetStep h s
  exact ⟨zero (r := .status) nofun, zero (r := .irqEn) nofun, fun w => zero (r := .tk w) nofun,
    fun k => ⟨zero (r := .blkIn k) nofun, zero (r := .blkOut k) nofun⟩,
    fun e => ⟨zero (r := .rkHi e) nofun, zero (r := .rkLo e) nofun⟩,
    resetStep_lcmd s, enginePhase_of_lcmd_none (resetStep_lcmd s), resetStep_done s,
    irq_of_not_pending (resetStep_done s) (resetStep_err s), rfl, zero nofun⟩

end Sys2Proof.Machine
end

section
/-! The command word: what an accepted word says of its fields, and the four statements that the decoder and the encoder
are inverse on exactly the words of the table (R61 to R66). -/

namespace Sys2Proof.Machine

/-- Every instruction's word carries the instruction's own fields (R61 to R65). -/
theorem encodedFields (i : Instr) : Laws.EncodedFields.Statement i := Laws.commandWord_fields _ _ _

/-- Every legal command decodes from its own word (R66). -/
theorem decode_encode {i : Instr} (h : i.WellFormed) : decode (encode i) = .ok i := by
  obtain ⟨hop, hvar, hrounds, hrsv0, hrsv1⟩ := encodedFields i
  have legal : ¬ Config.maxRounds < i.rounds.toNat := Nat.not_lt.2 h
  rw [decode, hop, hvar, hrounds, hrsv0, hrsv1]
  cases i with
  | nop | clear => rfl
  | expandS R | expandD R | expandT R | encrypt R => exact if_neg legal

/-- A word with its reserved bits 0 is the command word of its other fields (R61). -/
theorem commandWord_of_fields {w : Word32} (h1 : rsv1Field w = 0) (h0 : rsv0Field w = 0) :
    commandWord (opField w) (varField w) (roundsField w) = w := by
  have all_fields : w = rsv1Field w ++ roundsField w ++ rsv0Field w ++ varField w ++ opField w := by
    apply BitVec.eq_of_getLsbD_eq
    intro j hj
    simp only [rsv1Field, roundsField, rsv0Field, varField, opField, BitVec.getLsbD_append,
      BitVec.getLsbD_extractLsb']
    interval_cases j <;> rfl
  rw [h1, h0] at all_fields
  exact all_fields.symm

/-- The variant of EXPAND is named by `VAR` (R63). -/
theorem expandOfVar_fields {var : BitVec 2} (h : var ≠ 0) (R : BitVec 6) :
    opOf (expandOfVar var R) = 0x1 ∧ varOf (expandOfVar var R) = var ∧ (expandOfVar var R).rounds = R := by
  have named : var = 1 ∨ var = 2 ∨ var = 3 := by revert var; decide
  obtain rfl | rfl | rfl := named <;> exact ⟨rfl, rfl, rfl⟩

/-- What an accepted word says of its fields: the reserved ones are 0, the others are the command's, and its round count
is legal (R66). -/
theorem decode_ok_fields {w : Word32} {i : Instr} (h : decode w = .ok i) :
    rsv1Field w = 0 ∧ rsv0Field w = 0 ∧
      (opOf i = opField w ∧ varOf i = varField w ∧ i.rounds = roundsField w) ∧ i.WellFormed := by
  unfold decode at h
  split_ifs at h with hrsv hnop hzero hexpand hvar hrounds hencrypt hvar hrounds hclear hzero
  all_goals
    cases h
    obtain ⟨h1, h0⟩ : rsv1Field w = 0 ∧ rsv0Field w = 0 := by simpa using hrsv
    refine ⟨h1, h0, ?_⟩
  · obtain ⟨hvar, hrounds⟩ : varField w = 0 ∧ roundsField w = 0 := by simpa using hzero
    exact ⟨⟨hnop.symm, hvar.symm, hrounds.symm⟩, Nat.zero_le _⟩
  · obtain ⟨hop, hvar', hrounds'⟩ := expandOfVar_fields hvar (roundsField w)
    exact ⟨⟨hop.trans hexpand.symm, hvar', hrounds'⟩, (congrArg BitVec.toNat hrounds').trans_le (Nat.not_lt.1 hrounds)⟩
  · exact ⟨⟨hencrypt.symm, (not_not.1 hvar).symm, rfl⟩, Nat.not_lt.1 hrounds⟩
  · obtain ⟨hvar, hrounds⟩ : varField w = 0 ∧ roundsField w = 0 := by simpa using hzero
    exact ⟨⟨hclear.symm, hvar.symm, hrounds.symm⟩, Nat.zero_le _⟩

/-- An accepted word is the one word of its command, which is legal (R66). -/
theorem encode_of_decode {w : Word32} {i : Instr} (h : decode w = .ok i) : encode i = w ∧ i.WellFormed := by
  obtain ⟨h1, h0, ⟨hop, hvar, hrounds⟩, legal⟩ := decode_ok_fields h
  refine ⟨?_, legal⟩
  rw [encode, hop, hvar, hrounds, commandWord_of_fields h1 h0]

/-- The decoder accepts exactly the words of the legal commands. -/
theorem decode_eq_ok_iff {w : Word32} {i : Instr} : decode w = .ok i ↔ i.WellFormed ∧ w = encode i := by
  constructor
  · intro h
    obtain ⟨hw, legal⟩ := encode_of_decode h
    exact ⟨legal, hw.symm⟩
  · rintro ⟨legal, rfl⟩
    exact decode_encode legal

/-- The words of the four commands with a round count: the fixed bits of the table, and `R` shifted to bit 8 (R64). -/
theorem encode_rounds (R : BitVec 6) :
    encode (.expandS R) = 0x00000011 + R.setWidth 32 <<< 8 ∧ encode (.expandD R) = 0x00000021 + R.setWidth 32 <<< 8 ∧
      encode (.expandT R) = 0x00000031 + R.setWidth 32 <<< 8 ∧
      encode (.encrypt R) = 0x00000002 + R.setWidth 32 <<< 8 := by
  revert R
  decide

/-- Settles O1: the decoder reads each field of the command's own word. -/
theorem encodedCommandDecodesToItself : Obligations.EncodedCommandDecodesToItself := by
  unfold Obligations.EncodedCommandDecodesToItself
  exact fun _ legal => decode_encode legal

/-- Settles O2: an accepted word is put together again from its fields. -/
theorem decodedWordIsTheCommandsOnlyWord : Obligations.DecodedWordIsTheCommandsOnlyWord := by
  unfold Obligations.DecodedWordIsTheCommandsOnlyWord
  exact fun _ _ h => encode_of_decode h

/-- Settles O3: a word is accepted as a command exactly when it is the command's word, which the table lists. -/
theorem legalCommandWordsAreTheTable : Obligations.LegalCommandWordsAreTheTable := by
  unfold Obligations.LegalCommandWordsAreTheTable
  refine fun w => ⟨?nop, ?clear, fun R => ?rounds⟩
  case nop => exact decode_eq_ok_iff.trans (and_iff_right (Nat.zero_le _))
  case clear => exact decode_eq_ok_iff.trans (and_iff_right (Nat.zero_le _))
  case rounds =>
    obtain ⟨hS, hD, hT, hE⟩ := encode_rounds R
    rw [← hS, ← hD, ← hT, ← hE]
    exact ⟨decode_eq_ok_iff, decode_eq_ok_iff, decode_eq_ok_iff, decode_eq_ok_iff⟩

/-- Settles O4: each worked word is the encoding of its command. -/
theorem workedEncodingsDecode : Obligations.WorkedEncodingsDecode := by
  unfold Obligations.WorkedEncodingsDecode
  have decodes (i : Instr) (legal : i.WellFormed) : decode (encode i) = .ok i := decode_encode legal
  exact ⟨decodes (.expandS 32) (by decide), decodes (.expandD 36) (by decide), decodes (.expandT 40) (by decide),
    decodes (.encrypt 32) (by decide), decodes (.expandT 48) (by decide), decodes (.encrypt 0) (by decide),
    decodes .nop (by decide), decodes .clear (by decide)⟩

end Sys2Proof.Machine
end

section
/-! What one step leaves as it was and what it keeps: the frame of the six commands, of a transaction and of the
engine's turn, and the statements about the writers of the registers (R15 to R25, R68). -/

namespace Sys2Proof.Machine

/-! ### The frame of the commands -/

/-- Only CLEAR modifies `TK` and `BLK_IN` (R20, R22). -/
theorem perform_tk_blkIn (i : Instr) (s : State) :
    ((perform i s).tk = s.tk ∧ (perform i s).blkIn = s.blkIn) ∨ i = .clear := by
  cases i with
  | clear => exact .inr rfl
  | nop | expandS R | expandD R | expandT R | encrypt R => exact .inl ⟨rfl, rfl⟩

/-- Only CLEAR and ENCRYPT write `BLK_OUT` (R23). -/
theorem perform_blkOut (i : Instr) (s : State) :
    (perform i s).blkOut = s.blkOut ∨ i = .clear ∨ ∃ R : BitVec 6, i = .encrypt R := by
  cases i with
  | clear => exact .inr (.inl rfl)
  | encrypt R => exact .inr (.inr ⟨R, rfl⟩)
  | nop | expandS R | expandD R | expandT R => exact .inl rfl

/-- Only CLEAR and EXPAND write `RK` (R25). -/
theorem perform_rk (i : Instr) (s : State) :
    (perform i s).rk = s.rk ∨ i = .clear ∨
      ∃ R : BitVec 6, i = .expandS R ∨ i = .expandD R ∨ i = .expandT R := by
  cases i with
  | clear => exact .inr (.inl rfl)
  | expandS R => exact .inr (.inr ⟨R, .inl rfl⟩)
  | expandD R => exact .inr (.inr ⟨R, .inr (.inl rfl)⟩)
  | expandT R => exact .inr (.inr ⟨R, .inr (.inr rfl)⟩)
  | nop | encrypt R => exact .inl rfl

/-- Only CLEAR writes an entry of `RK` from the round count on (R90). -/
theorem perform_rk_kept {i : Instr} (hclear : i ≠ .clear) {e : Fin 48} (he : i.rounds.toNat ≤ e.val) (s : State) :
    (perform i s).rk[e] = s.rk[e] := by
  cases i with
  | clear => exact absurd rfl hclear
  | nop | encrypt R => rfl
  | expandS R | expandD R | expandT R => exact expandStore_kept _ _ _ he

/-- Settles O42, from the frame of `Perform` and the end of the command. -/
theorem commandsChangeOnlyTheirResults : Obligations.CommandsChangeOnlyTheirResults := by
  unfold Obligations.CommandsChangeOnlyTheirResults
  intro i s t h
  obtain ⟨-, rfl⟩ := exec_eq_next.1 h
  refine ⟨perform_irqEn i s, perform_err i s, perform_ecode i s, perform_events i s, perform_reply i s,
    perform_draws i s, rfl, rfl, fun hclear => (perform_tk_blkIn i s).resolve_right hclear,
    fun hclear hencrypt => (perform_blkOut i s).resolve_right ?_,
    fun hclear hexpand => (perform_rk i s).resolve_right ?_, fun _ hclear he => perform_rk_kept hclear he s⟩
  · rintro (rfl | ⟨R, rfl⟩)
    exacts [hclear rfl, hencrypt R rfl]
  · rintro (rfl | ⟨R, rfl | rfl | rfl⟩)
    exacts [hclear rfl, (hexpand R).1 rfl, (hexpand R).2.1 rfl, (hexpand R).2.2 rfl]

/-! ### Everything one agent's turn can do -/

/-- Everything the engine's turn can do: pass while idle, or complete the latched command (R68). -/
theorem complete_cases {s t : State} (h : complete s = .next t) :
    (s.lcmd = none ∧ t = s) ∨ ∃ i, s.lcmd = some i ∧ t = finishCommand (perform i s) := by
  cases hi : s.lcmd with
  | none =>
    rw [complete_idle hi] at h
    cases h
    exact .inl ⟨rfl, rfl⟩
  | some i =>
    rw [complete_busy hi] at h
    obtain ⟨-, ht⟩ := exec_eq_next.1 h
    exact .inr ⟨i, rfl, ht⟩

/-- The latched command and the registers that a command reads are the same in the two states (R30, R47). -/
def State.SameOperands (s t : State) : Prop := t.lcmd = s.lcmd ∧ t.tk = s.tk ∧ t.blkIn = s.blkIn ∧ t.rk = s.rk

theorem State.SameOperands.refl (s : State) : s.SameOperands s := ⟨rfl, rfl, rfl, rfl⟩

/-- Everything a transaction can do to the schedule, `BLK_OUT` and a command's operands: nothing, or while idle latch a
legal command or store to the operand register at its offset (R23, R47, R50, R67). -/
theorem transact_operands (tx : Txn) (s : State) :
    (transact tx s).events = s.events ∧ (transact tx s).blkOut = s.blkOut ∧
      (s.SameOperands (transact tx s) ∨ s.lcmd = none ∧
        ((∃ i, i.WellFormed ∧ { s with lcmd := some i }.SameOperands (transact tx s)) ∨
          ∃ off v q, tx = .write off v ∧ regAt off = some q ∧ (writeReg q v s).SameOperands (transact tx s))) := by
  cases tx with
  | read off =>
    obtain ⟨r, n, h⟩ := busRead_eq off s
    rw [transact, h]
    exact ⟨rfl, rfl, .inl (.refl s)⟩
  | write off v =>
    obtain ⟨r, u, hw, hu⟩ := busWrite_cases off v s
    rw [transact, hw, respond_events, respond_blkOut]
    obtain rfl | ⟨c, rfl⟩ | ⟨i, -, hidle, hi, rfl⟩ | ⟨-, rfl⟩ | ⟨-, rfl⟩ | ⟨q, hq, hidle, -, rfl⟩ := hu
    · exact ⟨rfl, rfl, .inl (.refl u)⟩
    · exact ⟨raiseError_events c s, raiseError_blkOut c s,
        .inl ⟨raiseError_lcmd c s, raiseError_tk c s, raiseError_blkIn c s, raiseError_rk c s⟩⟩
    · exact ⟨rfl, rfl, .inr ⟨hidle, .inl ⟨i, (encode_of_decode hi).2, .refl _⟩⟩⟩
    · exact ⟨rfl, rfl, .inl (.refl s)⟩
    · exact ⟨rfl, rfl, .inl (.refl s)⟩
    · exact ⟨writeReg_events q v s, writeReg_blkOut q v s, .inr ⟨hidle, .inr ⟨off, v, q, rfl, hq, .refl _⟩⟩⟩

theorem transact_events (tx : Txn) (s : State) : (transact tx s).events = s.events := (transact_operands tx s).1

theorem transact_blkOut (tx : Txn) (s : State) : (transact tx s).blkOut = s.blkOut := (transact_operands tx s).2.1

/-- While busy no transaction reaches the operands of the running command (R50, R67). -/
theorem transact_busy {s : State} (h : s.lcmd ≠ none) (tx : Txn) : s.SameOperands (transact tx s) := by
  obtain ⟨-, -, hsame | ⟨hidle, -⟩⟩ := transact_operands tx s
  · exact hsame
  · exact absurd hidle h

/-- A step uses up the oldest event, and nothing else changes the schedule (R10). -/
theorem step_events {s t : State} (h : step s = .next t) : t.events = s.events.tail := by
  obtain ⟨u, -, hu, rfl⟩ | ⟨tx, es, he, rfl⟩ | ⟨es, he, rfl⟩ := step_cases h
  · obtain ⟨-, rfl⟩ | ⟨i, -, rfl⟩ := complete_cases hu
    · rfl
    · exact perform_events i _
  · rw [transact_events, he]; rfl
  · rw [he]; rfl

/-! ### The writers of the data registers -/

/-- Settles O56: no transaction writes `BLK_OUT`, and of the commands only CLEAR and ENCRYPT do. -/
theorem onlyEncryptClearAndResetWriteBlkOut : Obligations.OnlyEncryptClearAndResetWriteBlkOut := by
  unfold Obligations.OnlyEncryptClearAndResetWriteBlkOut
  intro s t h hne
  obtain ⟨u, hturn, hu, rfl⟩ | ⟨tx, es, he, rfl⟩ | ⟨es, he, rfl⟩ := step_cases h
  · refine .inr ⟨hturn, ?_⟩
    obtain ⟨-, rfl⟩ | ⟨i, hi, rfl⟩ := complete_cases hu
    · exact absurd rfl hne
    · obtain rfl | ⟨R, rfl⟩ := (perform_blkOut i _).resolve_left hne
      exacts [.inl hi, .inr ⟨R, hi⟩]
  · exact absurd (transact_blkOut tx _) hne
  · exact .inl (by rw [he]; rfl)

/-- A store to an operand register changes that register only (R20, R22, R25). -/
theorem writeReg_changes (q : Reg) (v : Word32) (s : State) :
    ((writeReg q v s).tk = s.tk ∨ ∃ w, q = .tk w) ∧ ((writeReg q v s).blkIn = s.blkIn ∨ ∃ k, q = .blkIn k) ∧
      ((writeReg q v s).rk = s.rk ∨ ∃ e, q = .rkHi e ∨ q = .rkLo e) := by
  cases q with
  | id | cmd | status | irqEn | blkOut => exact ⟨.inl rfl, .inl rfl, .inl rfl⟩
  | tk w => exact ⟨.inr ⟨w, rfl⟩, .inl rfl, .inl rfl⟩
  | blkIn k => exact ⟨.inl rfl, .inr ⟨k, rfl⟩, .inl rfl⟩
  | rkHi e => exact ⟨.inl rfl, .inl rfl, .inr ⟨e, .inl rfl⟩⟩
  | rkLo e => exact ⟨.inl rfl, .inl rfl, .inr ⟨e, .inr rfl⟩⟩

/-- A transaction over which `TK`, `BLK_IN` or `RK` changes is a write to a register of theirs while idle (R47, R50). -/
theorem transact_changes (tx : Txn) (s : State) :
    ((transact tx s).tk = s.tk ∧ (transact tx s).blkIn = s.blkIn ∧ (transact tx s).rk = s.rk) ∨
      s.lcmd = none ∧ ∃ off v q, tx = .write off v ∧ regAt off = some q ∧
        ((transact tx s).tk = s.tk ∨ ∃ w, q = .tk w) ∧ ((transact tx s).blkIn = s.blkIn ∨ ∃ k, q = .blkIn k) ∧
        ((transact tx s).rk = s.rk ∨ ∃ e, q = .rkHi e ∨ q = .rkLo e) := by
  obtain ⟨-, -, ⟨-, hsame⟩ | ⟨hidle, ⟨i, -, -, hsame⟩ | ⟨off, v, q, htx, hq, -, htk, hblkIn, hrk⟩⟩⟩ :=
    transact_operands tx s
  · exact .inl hsame
  · exact .inl hsame
  · rw [htk, hblkIn, hrk]
    exact .inr ⟨hidle, off, v, q, htx, hq, writeReg_changes q v s⟩

/-- Settles O57: of the commands only CLEAR and EXPAND write an operand register, and of the transactions only an idle
write to one of its words. -/
theorem operandRegistersHaveTheirWriters : Obligations.OperandRegistersHaveTheirWriters := by
  unfold Obligations.OperandRegistersHaveTheirWriters
  intro s t h
  obtain ⟨u, hturn, hu, rfl⟩ | ⟨tx, es, he, rfl⟩ | ⟨es, he, rfl⟩ := step_cases h
  case inl =>
    obtain ⟨-, rfl⟩ | ⟨i, hi, rfl⟩ := complete_cases hu
    · exact ⟨(absurd rfl ·), (absurd rfl ·), (absurd rfl ·)⟩
    · refine ⟨fun hne => .inr (.inl ⟨hturn, ?_⟩), fun hne => .inr (.inl ⟨hturn, ?_⟩),
        fun hne => .inr (.inl ⟨hturn, ?_⟩)⟩
      · obtain rfl := (perform_tk_blkIn i _).resolve_left fun hsame => hne hsame.1
        exact hi
      · obtain rfl := (perform_tk_blkIn i _).resolve_left fun hsame => hne hsame.2
        exact hi
      · obtain rfl | ⟨R, rfl | rfl | rfl⟩ := (perform_rk i _).resolve_left hne
        exacts [.inl hi, .inr ⟨R, .inl hi⟩, .inr ⟨R, .inr (.inl hi)⟩, .inr ⟨R, .inr (.inr hi)⟩]
  case inr.inl =>
    obtain ⟨htk, hblkIn, hrk⟩ | ⟨hidle, off, v, q, rfl, hq, htk, hblkIn, hrk⟩ :=
      transact_changes tx { s with events := es }
    · exact ⟨fun hne => absurd htk hne, fun hne => absurd hblkIn hne, fun hne => absurd hrk hne⟩
    · have hhead : s.events.head? = some (.host (.write off v)) := by rw [he]; rfl
      refine ⟨fun hne => ?_, fun hne => ?_, fun hne => ?_⟩
      · obtain ⟨w, rfl⟩ := htk.resolve_left hne
        exact .inr (.inr ⟨hidle, off, v, w, hq, hhead⟩)
      · obtain ⟨k, rfl⟩ := hblkIn.resolve_left hne
        exact .inr (.inr ⟨hidle, off, v, k, hq, hhead⟩)
      · obtain ⟨e, rfl | rfl⟩ := hrk.resolve_left hne
        exacts [.inr (.inr ⟨hidle, off, v, e, .inl hq, hhead⟩), .inr (.inr ⟨hidle, off, v, e, .inr hq, hhead⟩)]
  case inr.inr =>
    have hhead : s.events.head? = some .reset := by rw [he]; rfl
    exact ⟨fun _ => .inl hhead, fun _ => .inl hhead, fun _ => .inl hhead⟩

end Sys2Proof.Machine
end

section
/-! The steps of the three agents and of the placed word, one equation each, and their statements (R10, R52, R68, R161,
R171). -/

namespace Sys2Proof.Machine

section
variable {s : State} {es : List Event}

/-- With an event left, a step is that agent's turn on the state without the event (R10). -/
theorem step_of_event {e : Event} (h : s.events = e :: es) : step s = takeTurn e { s with events := es } := by
  simp [step, nextStep, h]

/-- With no event left the engine acts (log 2). -/
theorem step_of_no_event (h : s.events = []) : step s = complete s := by simp [step, nextStep, h]

/-- A host's turn is its transaction (R10, R52). -/
theorem step_host {tx : Txn} (h : s.events = .host tx :: es) :
    step s = .next (transact tx { s with events := es }) := step_of_event h

/-- The engine's turn completes the latched command (R68). -/
theorem step_engine {i : Instr} (h : s.events = .engine :: es) (hi : s.lcmd = some i) :
    step s = exec i { s with events := es } := (step_of_event h).trans (complete_busy hi)

/-- The engine's turn passes while no command is latched (log 2). -/
theorem step_engine_idle (h : s.events = .engine :: es) (hidle : s.lcmd = none) :
    step s = .next { s with events := es } := (step_of_event h).trans (complete_idle hidle)

/-- The engine acts next in the schedule that gives it the next turn, the empty one among them (log 2). -/
theorem step_engineNext {i : Instr} (h : s.events = engineNext es) (hi : s.lcmd = some i) :
    step s = exec i { s with events := es } := by
  cases es with
  | nil =>
    have hsame : { s with events := [] } = s := by rw [← show s.events = [] from h]
    rw [hsame, step_of_no_event h, complete_busy hi]
  | cons e es => exact step_engine h hi

end

/-- Settles O5: the engine completes the latched command in its own turn and when no event is left. -/
theorem engineTurnRunsLatchedCommand : Obligations.EngineTurnRunsLatchedCommand := by
  unfold Obligations.EngineTurnRunsLatchedCommand
  exact fun s i hi => ⟨fun es h => step_engine h hi, fun h => (step_of_no_event h).trans (complete_busy hi)⟩

/-- Settles O6, from the turns of the host and of reset. -/
theorem hostAndResetTurnsAct : Obligations.HostAndResetTurnsAct := by
  unfold Obligations.HostAndResetTurnsAct
  exact fun s es => ⟨fun tx h => step_host h, fun h => step_of_event h⟩

/-- Settles O7: the write latches the decoded instruction, and the engine's turn completes what is latched. -/
theorem issuedWordIsExecuted : Obligations.IssuedWordIsExecuted := by
  unfold Obligations.IssuedWordIsExecuted
  intro s w i es hw hidle hevents
  refine ⟨{ s with events := .engine :: es, lcmd := some i, reply := some (.write .okay) }, ?latches, rfl,
    step_engine rfl rfl⟩
  rw [step_host hevents, transact_write_cmd, issue_of_ok (s := { s with events := .engine :: es }) hidle hw]
  rfl

/-- Settles O8: the placed word is latched, and the engine has the next turn. -/
theorem placedTableWordIsExecuted : Obligations.PlacedTableWordIsExecuted := by
  unfold Obligations.PlacedTableWordIsExecuted
  intro s nbits w i hw
  have placed : s.withFetchWord nbits w = { s with lcmd := some i, events := engineNext s.events } := by
    simp [State.withFetchWord, placeWord, hw]
  exact placed ▸ step_engineNext rfl rfl

/-- Settles O12: a transaction during reset has no turn but its refusal. -/
theorem transactionInResetIsRefused : Obligations.TransactionInResetIsRefused := by
  unfold Obligations.TransactionInResetIsRefused
  exact fun s tx es h => step_of_event h

/-- A schedule without transactions loses none of that when it loses an event. -/
theorem hostDone_tail {es : List Event} (h : hostDone es = true) : hostDone es.tail = true := by
  cases es with
  | nil => rfl
  | cons e es => exact (Bool.and_eq_true_iff.1 h).2

/-- After the end of a run no transaction is left to come, so a step is the engine's, which passes, or a reset
(R171). -/
theorem step_of_finished {s t : State} (hs : s.Finished) (h : step s = .next t) :
    t.Finished ∧ (s.SameCore t ∨ s.events.head? = some .reset) := by
  obtain ⟨hdone, hidle⟩ := hs
  have hdone' : hostDone t.events = true := step_events h ▸ hostDone_tail hdone
  obtain ⟨u, -, hu, rfl⟩ | ⟨tx, es, he, rfl⟩ | ⟨es, he, rfl⟩ := step_cases h
  · rw [complete_idle (s := { s with events := s.events.tail }) hidle] at hu
    cases hu
    exact ⟨⟨hdone', hidle⟩, .inl ⟨rfl, rfl, rfl, rfl, rfl, rfl, rfl, rfl, rfl⟩⟩
  · exact absurd (he ▸ List.mem_cons_self) ((hostDone_iff s.events).1 hdone tx).1
  · exact ⟨⟨hdone', rfl⟩, .inr (by rw [he]; rfl)⟩

/-- Settles O9: with no command latched the engine's turn passes, and no later step but a reset does more. -/
theorem idleEngineChangesNothing : Obligations.IdleEngineChangesNothing := by
  unfold Obligations.IdleEngineChangesNothing
  exact ⟨fun s hidle =>
      ⟨fun es h => step_engine_idle h hidle, fun h => (step_of_no_event h).trans (complete_idle hidle)⟩,
    fun s t hs h => step_of_finished hs h, fun s => and_congr_left' (hostDone_iff s.events)⟩

end Sys2Proof.Machine
end

section
/-! The invariant: the reset state has it and every step keeps it (R17, R19, R67). -/

namespace Sys2Proof.Machine

/-- The decoder never rejects a word with the code of no error (R132). -/
theorem decode_error_ne_noError {w : Word32} {c : ErrCode} (h : decode w = .error c) : c ≠ .noError := by
  unfold decode at h
  split_ifs at h <;> cases h <;> nofun

/-! ### `ECODE` is 0 exactly when `ERR` is 0 -/

/-- A raised error leaves a code other than `NONE`: its own, or that of the error before it (R133). -/
theorem raiseError_ecodeMatchesErr {c : ErrCode} {s : State} (hc : c ≠ .noError) (h : s.EcodeMatchesErr) :
    (raiseError c s).EcodeMatchesErr := by
  cases herr : s.err with
  | true => rwa [raiseError_of_err herr]
  | false => simpa [State.EcodeMatchesErr, herr] using hc

/-- A `CMD` write records the code of the decoder or `BUSY_CMD` (R67). -/
theorem issue_ecodeMatchesErr {s : State} (h : s.EcodeMatchesErr) (w : Word32) : (issue w s).EcodeMatchesErr := by
  by_cases hidle : s.lcmd = none
  · cases hw : decode w with
    | error c => exact issue_of_error hidle hw ▸ raiseError_ecodeMatchesErr (decode_error_ne_noError hw) h
    | ok i => exact issue_of_ok hidle hw ▸ h
  · exact issue_of_busy hidle w ▸ raiseError_ecodeMatchesErr nofun h

/-- An acknowledgement clears `ECODE` with `ERR` (R143). -/
theorem acknowledge_ecodeMatchesErr {s : State} (h : s.EcodeMatchesErr) (v : Word32) :
    (acknowledge v s).EcodeMatchesErr := by
  cases hv : v.getLsbD 2 with
  | true => simp [State.EcodeMatchesErr, hv]
  | false =>
    rw [State.EcodeMatchesErr, acknowledge_ecode, acknowledge_err, hv]
    exact h

/-- A write to an operand register records `BUSY_WRITE` or nothing (R50, R137). -/
theorem writeOperand_ecodeMatchesErr {s : State} (h : s.EcodeMatchesErr) (r : Reg) (v : Word32) :
    (writeOperand r v s).EcodeMatchesErr := by
  obtain ⟨-, hdropped⟩ | ⟨-, hstored⟩ := writeOperand_cases r v s
  · exact hdropped ▸ raiseError_ecodeMatchesErr nofun h
  · rw [hstored, State.EcodeMatchesErr, writeReg_ecode, writeReg_err]
    exact h

theorem writeMapped_ecodeMatchesErr {s : State} (h : s.EcodeMatchesErr) (r : Reg) (v : Word32) :
    (writeMapped r v s).EcodeMatchesErr := by
  cases r with
  | id | blkOut k | irqEn => exact h
  | cmd => exact issue_ecodeMatchesErr h v
  | status => exact acknowledge_ecodeMatchesErr h v
  | tk w | blkIn k | rkHi e | rkLo e => exact writeOperand_ecodeMatchesErr h _ v

theorem transact_ecodeMatchesErr {s : State} (h : s.EcodeMatchesErr) (tx : Txn) :
    (transact tx s).EcodeMatchesErr := by
  cases tx with
  | read off =>
    obtain ⟨-, herr, hecode⟩ := busRead_flags off s
    rw [State.EcodeMatchesErr, transact, herr, hecode]
    exact h
  | write off v =>
    rw [transact, busWrite]
    split
    · exact h
    · split
      · exact h
      · exact writeMapped_ecodeMatchesErr h _ v

/-! ### The other two parts -/

/-- What a write stores to `IRQ_EN` has its reserved bits 0 (R19). -/
theorem irqEnMask_irqEnMask (v : Word32) : irqEnMask (irqEnMask v) = irqEnMask v := by
  rw [irqEnMask, irqEnMask, BitVec.and_assoc, BitVec.and_self]

theorem transact_irqEnReservedZero {s : State} (h : s.IrqEnReservedZero) (tx : Txn) :
    (transact tx s).IrqEnReservedZero := by
  by_cases hirqEn : ∃ v : Word32, tx = .write 0x00C v
  · obtain ⟨v, rfl⟩ := hirqEn
    rw [transact_write_irqEn]
    exact irqEnMask_irqEnMask v
  · rw [State.IrqEnReservedZero, transact_irqEn (not_exists.1 hirqEn)]
    exact h

/-- A command that a transaction latches was accepted by the decoder (R67). -/
theorem transact_latchedWellFormed {s : State} (h : s.LatchedWellFormed) (tx : Txn) :
    (transact tx s).LatchedWellFormed := by
  obtain ⟨-, -, ⟨hlcmd, -⟩ | ⟨hidle, ⟨i, hi, hlcmd, -⟩ | ⟨off, v, q, -, -, hlcmd, -⟩⟩⟩ := transact_operands tx s
  · rw [State.LatchedWellFormed, hlcmd]
    exact h
  · rw [State.LatchedWellFormed, hlcmd]
    rintro _ ⟨⟩
    exact hi
  · rw [State.LatchedWellFormed, hlcmd, writeReg_lcmd]
    exact h

/-! ### Every agent keeps it -/

theorem transact_inv {s : State} (h : s.Inv) (tx : Txn) : (transact tx s).Inv := by
  obtain ⟨hecode, hirqEn, hlatched⟩ := h
  exact ⟨transact_ecodeMatchesErr hecode tx, transact_irqEnReservedZero hirqEn tx,
    transact_latchedWellFormed hlatched tx⟩

/-- A completion leaves the error and `IRQ_EN`, and no command latched (R68). -/
theorem finishCommand_perform_inv {s : State} (h : s.Inv) (i : Instr) : (finishCommand (perform i s)).Inv := by
  obtain ⟨hecode, hirqEn, -⟩ := h
  refine ⟨?_, ?_, nofun⟩
  · rw [State.EcodeMatchesErr, finishCommand_ecode, finishCommand_err, perform_ecode, perform_err]
    exact hecode
  · rw [State.IrqEnReservedZero, finishCommand_irqEn, perform_irqEn]
    exact hirqEn

theorem complete_inv {s t : State} (hs : s.Inv) (h : complete s = .next t) : t.Inv := by
  obtain ⟨-, rfl⟩ | ⟨i, -, rfl⟩ := complete_cases h
  · exact hs
  · exact finishCommand_perform_inv hs i

/-- The reset values meet the invariant, whatever schedule is still to come (R160). -/
theorem resetStep_inv (s : State) : (resetStep s).Inv := by
  have hirqEn : irqEnMask 0 = 0 := by decide
  exact ⟨iff_of_true rfl rfl, hirqEn, nofun⟩

/-- Every step keeps the invariant: each of the three agents does. -/
theorem step_inv {s t : State} (hs : s.Inv) (h : step s = .next t) : t.Inv := by
  obtain ⟨u, -, hu, rfl⟩ | ⟨tx, es, -, rfl⟩ | ⟨es, -, rfl⟩ := step_cases h
  · exact complete_inv (s := { s with events := s.events.tail }) hs hu
  · exact transact_inv (s := { s with events := es }) hs tx
  · exact resetStep_inv _

/-- Settles O54: the reset state is what a reset step leaves. -/
theorem resetMeetsTheInvariant : Obligations.ResetMeetsTheInvariant := resetStep_inv State.reset

/-- Settles O55, from the turns of the three agents. -/
theorem everyStepKeepsTheInvariant : Obligations.EveryStepKeepsTheInvariant := by
  unfold Obligations.EveryStepKeepsTheInvariant
  exact fun _ _ hs h => step_inv hs h

end Sys2Proof.Machine
end

section
/-! Runs of many steps: operands held while busy, progress under every schedule, and the completion of an accepted
command (R52, R68; 20_memory.md section 5, 60_exceptions.md section 1). -/

namespace Sys2Proof.Machine

/-! ### Transactions while busy -/

/-- A command that is running stays latched over any list of transactions, with its operands and `BLK_OUT` (R50,
R67). -/
theorem run_txns_busy (txns : List Txn) {es : List Event} {s t : State} (hbusy : s.lcmd ≠ none)
    (hevents : s.events = txns.map .host ++ es) (h : core.run txns.length s = .next t) :
    s.SameOperands t ∧ t.blkOut = s.blkOut ∧ t.events = es := by
  induction txns generalizing s with
  | nil =>
    cases h
    exact ⟨.refl _, rfl, hevents⟩
  | cons tx txns ih =>
    rw [List.length_cons, run_next (step_host hevents)] at h
    obtain ⟨hlcmd, htk, hblkIn, hrk⟩ := transact_busy (s := { s with events := txns.map .host ++ es }) hbusy tx
    obtain ⟨⟨hlcmd', htk', hblkIn', hrk'⟩, hblkOut', hevents'⟩ := ih (hlcmd.trans_ne hbusy) (transact_events tx _) h
    exact ⟨⟨hlcmd'.trans hlcmd, htk'.trans htk, hblkIn'.trans hblkIn, hrk'.trans hrk⟩,
      hblkOut'.trans (transact_blkOut tx _), hevents'⟩

/-- Settles O58, by induction on the list of transactions. -/
theorem operandsHoldWhileBusy : Obligations.OperandsHoldWhileBusy := by
  unfold Obligations.OperandsHoldWhileBusy
  intro txns es s t hbusy hevents h
  obtain ⟨⟨hlcmd, htk, hblkIn, hrk⟩, hblkOut, hes⟩ := run_txns_busy txns hbusy hevents h
  exact ⟨hlcmd, htk, hblkIn, hblkOut, hrk, hes⟩

/-! ### Progress -/

/-- A latched command is legal, so the engine's turn answers a next state (R67, R68). -/
theorem complete_progress {s : State} (h : s.LatchedWellFormed) : ∃ t, complete s = .next t := by
  cases hi : s.lcmd with
  | none => exact ⟨s, complete_idle hi⟩
  | some i => exact ⟨_, (complete_busy hi).trans (exec_next s (h i hi))⟩

/-- Only a transaction during reset stops a step (R130, R161). -/
theorem step_progress {s : State} (h : s.LatchedWellFormed) (hreset : s.NoTxnInReset) : ∃ t, step s = .next t := by
  cases hevents : s.events with
  | nil => exact step_of_no_event hevents ▸ complete_progress h
  | cons e es =>
    rw [step_of_event hevents]
    cases e with
    | host tx | reset => exact ⟨_, rfl⟩
    | engine => exact complete_progress h
    | hostInReset tx => exact absurd (hevents ▸ List.mem_cons_self) (hreset tx)

/-- The schedule of the next state holds no event that the schedule before it did not. -/
theorem step_noTxnInReset {s t : State} (hs : s.NoTxnInReset) (h : step s = .next t) : t.NoTxnInReset :=
  fun tx hmem => hs tx (List.mem_of_mem_tail (step_events h ▸ hmem))

/-- Settles O60, by induction on the number of steps: a step is answered, and its state meets the hypotheses again. -/
theorem everyScheduleRunsOn : Obligations.EveryScheduleRunsOn := by
  unfold Obligations.EveryScheduleRunsOn
  intro s hs hreset k
  induction k generalizing s with
  | zero => exact ⟨s, rfl, hs⟩
  | succ k ih =>
    obtain ⟨t, ht⟩ := step_progress hs.2.2 hreset
    rw [run_next ht]
    exact ih t (step_inv hs ht) (step_noTxnInReset hreset ht)

/-! ### The completion of an accepted command -/

/-- A busy machine is idle with `DONE` = 1 within one step more than the events of its schedule: transactions leave the
command latched until the engine's turn comes (R50, R68). -/
theorem completes_within (es : List Event) {s : State} (hevents : s.events = es) (hlatched : s.LatchedWellFormed)
    (hbusy : s.lcmd ≠ none) (hreset : s.NoTxnInReset) (hno : Event.reset ∉ s.events) :
    ∃ k t, k ≤ es.length + 1 ∧ core.run k s = .next t ∧ t.lcmd = none ∧ t.done = true := by
  induction es generalizing s with
  | nil =>
    obtain ⟨i, hi⟩ := Option.ne_none_iff_exists'.1 hbusy
    have hstep := (step_of_no_event hevents).trans ((complete_busy hi).trans (exec_next s (hlatched i hi)))
    exact ⟨1, _, Nat.le_refl _, run_next hstep 0, rfl, rfl⟩
  | cons e es ih =>
    cases e with
    | engine =>
      obtain ⟨i, hi⟩ := Option.ne_none_iff_exists'.1 hbusy
      have hstep := (step_engine hevents hi).trans (exec_next _ (hlatched i hi))
      exact ⟨1, _, Nat.le_add_left _ _, run_next hstep 0, rfl, rfl⟩
    | host tx =>
      have hstep := step_host hevents
      obtain ⟨hlcmd, -⟩ := transact_busy (s := { s with events := es }) hbusy tx
      have hevents' := transact_events tx { s with events := es }
      have hno' : Event.reset ∉ es := fun hmem => hno (hevents ▸ List.mem_cons_of_mem _ hmem)
      obtain ⟨k, t, hk, hrun, ht⟩ := ih hevents' (transact_latchedWellFormed (s := { s with events := es }) hlatched tx)
        (hlcmd.trans_ne hbusy) (step_noTxnInReset hreset hstep) (hevents' ▸ hno')
      exact ⟨k + 1, t, Nat.succ_le_succ hk, (run_next hstep k).trans hrun, ht⟩
    | reset => exact absurd (hevents ▸ List.mem_cons_self) hno
    | hostInReset tx => exact absurd (hevents ▸ List.mem_cons_self) (hreset tx)

/-- Settles O59, by induction on the schedule. -/
theorem acceptedCommandCompletes : Obligations.AcceptedCommandCompletes := by
  unfold Obligations.AcceptedCommandCompletes
  intro s hs hbusy hreset hno
  obtain ⟨-, -, hlatched⟩ := hs
  exact completes_within s.events rfl hlatched hbusy hreset hno

end Sys2Proof.Machine
end

section
/-! The register window: the map, reads busy and idle, what a store to an operand register does to every register's read
value, and the idempotence of writes (R41, R46, R47, R50, R51). -/

namespace Sys2Proof.Machine

/-! ### The map -/

/-- The map lists each register at its own offset (R41). -/
theorem regAt_regOffset (r : Reg) : regAt (regOffset r) = some r := (regOffset_found r).2

/-- Settles O20: the listed offsets are those of the registers, and none stands in the other ranges. -/
theorem registerMapIsTheTable : Obligations.RegisterMapIsTheTable := by
  unfold Obligations.RegisterMapIsTheTable
  exact ⟨regAt_regOffset .id, regAt_regOffset .cmd, regAt_regOffset .status, regAt_regOffset .irqEn,
    fun w => regAt_regOffset (.tk w), fun k => regAt_regOffset (.blkIn k), fun k => regAt_regOffset (.blkOut k),
    fun e => regAt_regOffset (.rkHi e), fun e => regAt_regOffset (.rkLo e),
    fun _ _ hrange => regAt_eq_none_of_unmapped hrange⟩

/-! ### Reads -/

section
variable {r : Reg} {s : State}

/-- A read answers OKAY and the register's read value, but for a result register while busy (R46). -/
theorem transact_read_value (h : s.lcmd = none ∨ isResult r = false) :
    transact (.read (regOffset r)) s = { s with reply := some (.read .okay (readValue r s)) } := by
  have not_free : ¬ (s.busy ∧ isResult r) := by
    rw [busy_eq_true]
    obtain hidle | hresult := h
    · exact fun hfree => hfree.1 hidle
    · exact fun hfree => Bool.eq_false_iff.1 hresult hfree.2
  rw [transact_read, readMapped, if_neg not_free]
  rfl

/-- A busy read of a result register answers OKAY and a fresh free value (R51). -/
theorem transact_read_free (hbusy : s.lcmd ≠ none) (hresult : isResult r = true) :
    transact (.read (regOffset r)) s =
      { s with reply := some (.read .okay (Config.busyRead s.draws)), draws := s.draws + 1 } := by
  rw [transact_read, readMapped, if_pos ⟨(busy_eq_true s).2 hbusy, hresult⟩]
  rfl

end

/-- Settles O24: every register but the results reads its value in every state, and the results while idle. -/
theorem readReturnsRegisterValue : Obligations.ReadReturnsRegisterValue := by
  unfold Obligations.ReadReturnsRegisterValue
  exact fun s => ⟨transact_read_value (r := .id) (.inr rfl), transact_read_value (r := .cmd) (.inr rfl),
    transact_read_value (r := .status) (.inr rfl), transact_read_value (r := .irqEn) (.inr rfl),
    fun w => transact_read_value (r := .tk w) (.inr rfl), fun k => transact_read_value (r := .blkIn k) (.inr rfl),
    fun hidle => ⟨fun k => transact_read_value (r := .blkOut k) (.inl hidle),
      fun e => transact_read_value (r := .rkHi e) (.inl hidle),
      fun e => transact_read_value (r := .rkLo e) (.inl hidle)⟩⟩

/-- Settles O25: each offset of the first clause is that of a result register, each register of the second is none. -/
theorem busyReadOfResultIsFree : Obligations.BusyReadOfResultIsFree := by
  unfold Obligations.BusyReadOfResultIsFree
  refine fun s hbusy => ⟨?results, ?others⟩
  case results =>
    rintro off (rfl | rfl | ⟨e, rfl | rfl⟩)
    · exact transact_read_free (r := .blkOut 0) hbusy rfl
    · exact transact_read_free (r := .blkOut 1) hbusy rfl
    · exact transact_read_free (r := .rkHi e) hbusy rfl
    · exact transact_read_free (r := .rkLo e) hbusy rfl
  case others =>
    rintro r (rfl | rfl | rfl | rfl | ⟨w, rfl⟩ | ⟨k, rfl⟩) <;> exact transact_read_value (.inr rfl)

/-- Settles O26: a read changes the reply and the count of draws only. -/
theorem readChangesNoCoreState : Obligations.ReadChangesNoCoreState := by
  unfold Obligations.ReadChangesNoCoreState
  intro s off
  obtain ⟨r, n, h⟩ := busRead_eq off s
  rw [transact, h]
  exact ⟨⟨rfl, rfl, rfl, rfl, rfl, rfl, rfl, rfl, rfl⟩, rfl⟩

/-! ### A store to an operand register -/

/-- A store reads back, every bit of it (R20, R22, R25). -/
theorem readValue_writeReg_same {r : Reg} (h : isOperand r = true) (v : Word32) (s : State) :
    readValue r (writeReg r v s) = v := by
  cases r with
  | id | cmd | status | irqEn | blkOut => cases h
  | tk | blkIn | rkHi | rkLo => simp [readValue, writeReg]

/-- `STATUS` shows the flags and the latched command, which a store leaves (R18). -/
theorem statusWord_writeReg (r : Reg) (v : Word32) (s : State) : statusWord (writeReg r v s) = statusWord s := by
  simp [statusWord, State.busy]

/-- A store to one position of a vector leaves the others. -/
theorem getElem_set_of_ne {α : Type} {n : Nat} (xs : Vector α n) {i j : Fin n} (h : i ≠ j) (x : α) :
    (xs.set i x)[j] = xs[j] := Vector.getElem_set_ne i.isLt j.isLt (Fin.val_ne_of_ne h)

/-- A store that keeps one component of what stood there leaves that component at every position. -/
theorem component_getElem_set {α β : Type} {n : Nat} (f : α → β) (xs : Vector α n) (i j : Fin n) {x : α}
    (h : f x = f xs[i]) : f (xs.set i x)[j] = f xs[j] := by
  by_cases hij : i = j
  · subst hij
    exact (congrArg f (Vector.getElem_set_self i.isLt)).trans h
  · rw [getElem_set_of_ne xs hij]

/-- Every other register reads as before: a store changes one position of one vector, and of an entry of `RK` one half
(R41). -/
theorem readValue_writeReg_other {q r : Reg} (h : q ≠ r) (v : Word32) (s : State) :
    readValue q (writeReg r v s) = readValue q s := by
  cases q with
  | id | cmd => rfl
  | status => exact statusWord_writeReg r v s
  | irqEn => exact writeReg_irqEn r v s
  | blkOut k => simp [readValue]
  | tk w =>
    cases r with
    | tk w' => exact getElem_set_of_ne s.tk (fun heq => h (congrArg Reg.tk heq.symm)) v
    | id | cmd | status | irqEn | blkIn | blkOut | rkHi | rkLo => rfl
  | blkIn k =>
    cases r with
    | blkIn k' => exact getElem_set_of_ne s.blkIn (fun heq => h (congrArg Reg.blkIn heq.symm)) v
    | id | cmd | status | irqEn | tk | blkOut | rkHi | rkLo => rfl
  | rkHi e =>
    cases r with
    | rkHi e' =>
      exact congrArg RkEntry.hi (getElem_set_of_ne s.rk (fun heq => h (congrArg Reg.rkHi heq.symm)) _)
    | rkLo e' => exact component_getElem_set RkEntry.hi s.rk e' e rfl
    | id | cmd | status | irqEn | tk | blkIn | blkOut => rfl
  | rkLo e =>
    cases r with
    | rkHi e' => exact component_getElem_set RkEntry.lo s.rk e' e rfl
    | rkLo e' =>
      exact congrArg RkEntry.lo (getElem_set_of_ne s.rk (fun heq => h (congrArg Reg.rkLo heq.symm)) _)
    | id | cmd | status | irqEn | tk | blkIn | blkOut => rfl

/-- While idle a write to an operand register stores to it (R47). -/
theorem writeOperand_of_idle {s : State} (h : s.lcmd = none) (r : Reg) (v : Word32) :
    writeOperand r v s = writeReg r v s := if_neg fun hbusy => (busy_eq_true s).1 hbusy h

/-- While busy a write to an operand register records `BUSY_WRITE` (R50). -/
theorem writeOperand_of_busy {s : State} (h : s.lcmd ≠ none) (r : Reg) (v : Word32) :
    writeOperand r v s = raiseError .busyWrite s := if_pos ((busy_eq_true s).2 h)

/-- The answer to a transaction is in no register. -/
theorem readValue_respond (q : Reg) (a : Reply) (s : State) : readValue q (respond a s) = readValue q s := by
  cases q <;> rfl

/-- Settles O27: the write is a store, which changes the read value of its own register only. -/
theorem idleOperandWriteReadsBack : Obligations.IdleOperandWriteReadsBack := by
  unfold Obligations.IdleOperandWriteReadsBack
  intro s r v hidle hr
  rw [transact_write_operand hr, writeOperand_of_idle hidle]
  exact ⟨rfl, (readValue_respond r _ _).trans (readValue_writeReg_same hr v s),
    fun q hq => (readValue_respond q _ _).trans (readValue_writeReg_other hq v s),
    (writeReg_lcmd r v s).trans hidle, writeReg_events r v s, writeReg_draws r v s⟩

/-! ### Writes performed twice -/

/-- Storing the same value again changes nothing (R47). -/
theorem writeReg_again (r : Reg) (v : Word32) (a : Reply) (s : State) :
    writeReg r v (respond a (writeReg r v s)) = respond a (writeReg r v s) := by
  cases r with
  | id | cmd | status | irqEn | blkOut => rfl
  | tk | blkIn | rkHi | rkLo => simp [writeReg, respond]

/-- Writing an operand register again changes nothing: the value is stored, or the error is recorded (R47, R133). -/
theorem writeOperand_again (r : Reg) (v : Word32) (a : Reply) (s : State) :
    writeOperand r v (respond a (writeOperand r v s)) = respond a (writeOperand r v s) := by
  by_cases hidle : s.lcmd = none
  · have hidle' : (respond a (writeReg r v s)).lcmd = none := (writeReg_lcmd r v s).trans hidle
    rw [writeOperand_of_idle hidle, writeOperand_of_idle hidle', writeReg_again]
  · have hbusy' : (respond a (raiseError .busyWrite s)).lcmd ≠ none := (raiseError_lcmd _ s).trans_ne hidle
    rw [writeOperand_of_busy hidle, writeOperand_of_busy hbusy',
      raiseError_of_err (s := respond a _) (raiseError_err _ s)]

/-- Acknowledging again changes nothing (R143). -/
theorem acknowledge_again (v : Word32) (a : Reply) (s : State) :
    acknowledge v (respond a (acknowledge v s)) = respond a (acknowledge v s) := by
  cases h1 : v.getLsbD 1 <;> cases h2 : v.getLsbD 2 <;> simp only [acknowledge, respond, h1, h2] <;> rfl

/-- Every mapped register but `CMD` takes the same write again as a write that changes nothing (R45, R47). -/
theorem writeMapped_again {r : Reg} (h : r ≠ .cmd) (v : Word32) (s : State) :
    writeMapped r v (writeMapped r v s) = writeMapped r v s := by
  cases r with
  | cmd => exact absurd rfl h
  | id | blkOut | irqEn => rfl
  | status => exact (congrArg (respond (.write .okay)) (acknowledge_again v (.write .okay) s) :)
  | tk | blkIn | rkHi | rkLo =>
    exact (congrArg (respond (.write .okay)) (writeOperand_again _ v (.write .okay) s) :)

/-- Settles O31: a refused write changes the reply only, and any other is one to a mapped register. -/
theorem writesOtherThanCommandsAreIdempotent : Obligations.WritesOtherThanCommandsAreIdempotent := by
  unfold Obligations.WritesOtherThanCommandsAreIdempotent
  intro s off v hoff
  by_cases hrefused : misaligned off = true ∨ regAt off = none
  · rw [(transact_refused hrefused s).2 v, (transact_refused hrefused _).2 v]
    rfl
  · obtain ⟨-, hmapped⟩ := not_or.1 hrefused
    obtain ⟨r, hr⟩ := Option.ne_none_iff_exists'.1 hmapped
    obtain rfl := regOffset_of_regAt hr
    have hcmd : r ≠ .cmd := by rintro rfl; exact hoff rfl
    rw [transact_write, transact_write, writeMapped_again hcmd]

end Sys2Proof.Machine
end

section
/-! The completions of the six commands: NOP and CLEAR, the refusal of more than 48 rounds, the round keys of the three
EXPAND variants as iterates of one update per word, and the rounds of ENCRYPT (R68, R80 to R93, R100 to R109, R120,
R121). -/

namespace Sys2Proof.Machine

/-! ### NOP, CLEAR, the reset values, and a round count above the table -/

/-- Settles O32: `Perform` of NOP is the identity. -/
theorem nopCompletes : Obligations.NopCompletes := by
  unfold Obligations.NopCompletes
  exact fun s => exec_next s (i := .nop) (Nat.zero_le _)

/-- A data register of zeros reads 0, entry by entry. -/
theorem replicate_getElem {α : Type} {n : Nat} (x : α) (i : Fin n) : (Vector.replicate n x)[i] = x :=
  Vector.getElem_replicate i.isLt

/-- Settles O33: `Perform` of CLEAR fills the data registers with zeros. -/
theorem clearCompletes : Obligations.ClearCompletes := by
  unfold Obligations.ClearCompletes
  exact fun s => ⟨_, exec_next s (i := .clear) (Nat.zero_le _), fun w => replicate_getElem 0 w,
    fun k => ⟨replicate_getElem 0 k, replicate_getElem 0 k⟩,
    fun e => ⟨congrArg RkEntry.hi (replicate_getElem _ e), congrArg RkEntry.lo (replicate_getElem _ e)⟩, rfl⟩

/-- Settles O11: the reset state is what a reset step leaves of it. -/
theorem resetStateHasResetValues : Obligations.ResetStateHasResetValues := by
  unfold Obligations.ResetStateHasResetValues
  obtain ⟨hstatus, hirqEn, htk, hblk, hrk, hlcmd, hphase, -, hirq, hid, hcmd⟩ :=
    resetStepZeroesEveryRegister State.reset
  exact ⟨hid, hcmd, hstatus, hirqEn, htk, hblk, hrk, hlcmd, hphase, hirq⟩

/-- Settles O41: no command with more than 48 rounds is performed. -/
theorem roundsAboveTableAreRefused : Obligations.RoundsAboveTableAreRefused := by
  unfold Obligations.RoundsAboveTableAreRefused
  intro R s habove
  have refused (p : State → State) : performRounds R p s = .refused .roundsAboveTable := if_neg (Nat.not_le.2 habove)
  exact ⟨refused _, refused _, refused _, refused _⟩

/-! ### The round keys, cell by cell -/

/-- The update of word 1 or 2 between two rounds: the permutation, then an LFSR in every cell (R84, R87). -/
def permuteThen (f : Nibble → Nibble) (w : Nib16) : Nib16 := (permuteWord w).map f

theorem updateWord_permuteWord (f : Nibble → Nibble) (w : Nib16) :
    updateWord .all16 f (permuteWord w) = permuteThen f w := by
  ext1 i hi
  rw [updateWord_all16_getElem, permuteThen, Vector.getElem_map]

/-- Before round `n` each word has been updated `n` times (R88). -/
theorem tweakeyBefore_single (t0 : Nib16) (n : Nat) :
    tweakeyBefore .all16 (.single t0) n = .single (permuteWord^[n] t0) := by
  induction n with
  | zero => rfl
  | succ n ih => rw [tweakeyBefore, ih, nextTweakey, Function.iterate_succ_apply']

theorem tweakeyBefore_double (t0 t1 : Nib16) (n : Nat) :
    tweakeyBefore .all16 (.double t0 t1) n = .double (permuteWord^[n] t0) ((permuteThen lfsr2)^[n] t1) := by
  induction n with
  | zero => rfl
  | succ n ih => simp only [tweakeyBefore, ih, nextTweakey, Function.iterate_succ_apply', updateWord_permuteWord]

theorem tweakeyBefore_triple (t0 t1 t2 : Nib16) (n : Nat) :
    tweakeyBefore .all16 (.triple t0 t1 t2) n =
      .triple (permuteWord^[n] t0) ((permuteThen lfsr2)^[n] t1) ((permuteThen lfsr3)^[n] t2) := by
  induction n with
  | zero => rfl
  | succ n ih => simp only [tweakeyBefore, ih, nextTweakey, Function.iterate_succ_apply', updateWord_permuteWord]

/-- What round `e` adds to cell `i` of its round key (R83). -/
def roundConstant (e : Fin 48) (i : Fin 16) : Nibble :=
  if i = 0 then rcTable[e].extractLsb' 0 4 else if i = 4 then rcTable[e].extractLsb' 4 4
  else if i = 8 then 0x2 else 0

/-- A round key is the active cells of the tweakey state with the constants of its round added (R82, R83). -/
theorem roundKey_cell (sc : LfsrScope) (t : TweakeyState) (e : Fin 48) (i : Fin 16) :
    (roundKey sc t e)[i] = (extractActive (tweakeyBefore sc t e.val))[i] ^^^ roundConstant e i := by
  rw [roundKey, injectConstants_cell, roundConstant]
  split_ifs <;> simp

/-- The completion of an EXPAND that loads the tweakey state `T`: the entries below `R` are the round keys of `T`, and
nothing else changes (R88 to R90). -/
theorem performRounds_keySchedule {R : BitVec 6} (legal : R.toNat ≤ 48) (T : TweakeyState) (s : State) :
    ∃ t : State, performRounds R (keySchedule lfsrScope T R) s = .next t ∧
      (∀ e : Fin 48, e.val < R.toNat → ∀ i : Fin 16,
        nib t.rk[e].word i = (extractActive (tweakeyBefore .all16 T e.val))[i] ^^^ roundConstant e i) ∧
      (∀ e : Fin 48, R.toNat ≤ e.val → t.rk[e] = s.rk[e]) ∧
      t = { s with rk := t.rk, lcmd := none, done := true } :=
  ⟨_, performRounds_next _ s legal,
    fun e he i => (expandStore_nib lfsrScope T s.rk he i).trans (roundKey_cell .all16 T e i),
    fun _ he => expandStore_kept lfsrScope T s.rk he, rfl⟩

/-- Settles O34, from the iterates of word 0. -/
theorem expandSingleCompletes : Obligations.ExpandSingleCompletes := by
  unfold Obligations.ExpandSingleCompletes
  intro R s legal
  obtain ⟨t, hexec, hcells, hkept, hframe⟩ := performRounds_keySchedule legal (loadSingle s.tk) s
  refine ⟨t, hexec, fun e he i => ?_, hkept, hframe⟩
  rw [hcells e he i, loadSingle, tweakeyBefore_single, extractActive_single]
  rfl

/-- Settles O35, from the iterates of words 0 and 1. -/
theorem expandDoubleCompletes : Obligations.ExpandDoubleCompletes := by
  unfold Obligations.ExpandDoubleCompletes
  intro R s legal
  obtain ⟨t, hexec, hcells, hkept, hframe⟩ := performRounds_keySchedule legal (loadDouble s.tk) s
  refine ⟨t, hexec, fun e he i => ?_, hkept, hframe⟩
  rw [hcells e he i, loadDouble, tweakeyBefore_double, extractActive_double]
  rfl

/-- Settles O36, from the iterates of words 0, 1 and 2. -/
theorem expandTripleCompletes : Obligations.ExpandTripleCompletes := by
  unfold Obligations.ExpandTripleCompletes
  intro R s legal
  obtain ⟨t, hexec, hcells, hkept, hframe⟩ := performRounds_keySchedule legal (loadTriple s.tk) s
  refine ⟨t, hexec, fun e he i => ?_, hkept, hframe⟩
  rw [hcells e he i, loadTriple, tweakeyBefore_triple, extractActive_triple]
  rfl

/-! ### The rounds of the block transform -/

@[simp] theorem encryptRounds_zero (rk : Vector RkEntry 48) (st : Nib16) : encryptRounds rk 0 st = st := rfl

/-- One round more is one round on the state after the rounds before it (R102). -/
theorem encryptRounds_succ (rk : Vector RkEntry 48) {n : Nat} (h : n < 48) (st : Nib16) :
    encryptRounds rk (n + 1) st = encryptRound rk[n].cells (encryptRounds rk n st) := by
  have hlen : n < rk.toList.length := by simpa using h
  rw [encryptRounds, List.take_succ_eq_append_getElem hlen, List.foldl_append, encryptRounds]
  simp

/-- Settles O37: the cells after `r` rounds are `encryptRounds` of them, for every `r` up to `R`. -/
theorem encryptCompletes : Obligations.EncryptCompletes := by
  unfold Obligations.EncryptCompletes
  intro R s legal
  refine ⟨_, fun r => encryptRounds s.rk r (unpack (blockWord s.blkIn)), exec_next s (i := .encrypt R) legal,
    fun i => unpack_getElem _ i i.isLt, fun r before => encryptRounds_succ s.rk (before.trans_le legal) _,
    fun i => nib_pack _ i, rfl⟩

/-- Repacking the cells of a block gives the block back (R108). -/
theorem packBlock_unpack (b : Vector Word32 2) : packBlock (unpack (blockWord b)) = b := by
  obtain ⟨hhigh, hlow⟩ := pack_unpack b[0] b[1]
  ext1 k hk
  interval_cases k
  · exact hhigh
  · exact hlow

/-- Settles O39: with no round the unpacked block is repacked. -/
theorem encryptZeroRoundsCopiesTheBlock : Obligations.EncryptZeroRoundsCopiesTheBlock := by
  unfold Obligations.EncryptZeroRoundsCopiesTheBlock
  intro s
  have copied : blockTransform 0 s = { s with blkOut := s.blkIn } := by
    have no_rounds : (0 : BitVec 6).toNat = 0 := rfl
    rw [blockTransform, no_rounds, encryptRounds_zero, packBlock_unpack]
  rw [exec_next s (i := .encrypt 0) (by decide), perform, copied, finishCommand]

end Sys2Proof.Machine
end

section
/-! The tables, and what follows for the key schedule: which words a variant reads, round key 0, the affine dependence
on the tweakey, and the all-zero tweakey (R32 to R35, R81 to R88; 40_key_schedule.md sections 1 and 3). -/

namespace Sys2Proof.Machine

/-! ### The tables -/

/-- The S-box maps no two nibbles to one (R32). -/
theorem sbox_injective : Function.Injective sbox := by decide

/-- Two words with the same cells are equal. -/
theorem cells_ext {a b : Nib16} (h : ∀ i : Fin 16, a[i] = b[i]) : a = b := Vector.ext fun i hi => h ⟨i, hi⟩

/-- `PT[p]` as a function of the position (R33). -/
def ptAt (p : Fin 16) : Fin 16 := pt[p]

/-- `n` permutations of a word move to position `i` the cell at the `n`-th iterate of `PT` (R33, R84). -/
theorem permuteWord_iterate (n : Nat) (w : Nib16) (i : Fin 16) : (permuteWord^[n] w)[i] = w[ptAt^[n] i] := by
  induction n generalizing i with
  | zero => rfl
  | succ n ih =>
    rw [Function.iterate_succ_apply']
    exact (permuteWord_getElem _ i i.isLt).trans (ih (ptAt i))

/-- The word whose cell `i` is `i`. -/
def countingWord : Nib16 := Vector.ofFn fun i => BitVec.ofNat 4 i.val

/-- Position 0 comes round to itself after 16 permutations only (R33). -/
theorem countingWord_moved : ∀ k : Fin 16, 0 < k.val → countingWord[ptAt^[k.val] 0] ≠ countingWord[(0 : Fin 16)] := by
  decide

/-- Settles O46: `PT` moves position 0 round all 16 positions, so 16 is the least power that is the identity; the rest
is read off the tables. -/
theorem tablesHaveTheirShape : Obligations.TablesHaveTheirShape := by
  unfold Obligations.TablesHaveTheirShape
  refine ⟨by decide, fun x y h => sbox_injective h, by decide, by decide, rfl, fun w => cells_ext fun i => ?identity,
    fun n hpos hlt => ?least, rfl, by decide⟩
  case identity =>
    have pt_cycle : ptAt^[16] i = i := by revert i; decide
    exact (permuteWord_iterate 16 w i).trans (congrArg (fun p : Fin 16 => w[p]) pt_cycle)
  case least =>
    refine ⟨countingWord, fun hsame => countingWord_moved ⟨n, hlt⟩ hpos ?_⟩
    rw [← permuteWord_iterate n countingWord 0, hsame]

/-- Settles O47, on the 16 nibbles. -/
theorem lfsrsAreInverse : Obligations.LfsrsAreInverse := by
  unfold Obligations.LfsrsAreInverse
  exact ⟨by decide, by decide, by decide, by decide⟩

/-! ### The nibbles of registers and entries -/

/-- The first eight nibbles of a pair are those of its first register, the other eight those of the second (R5). -/
theorem nib_append (a b : Word32) (i : Fin 16) :
    nib (a ++ b) i =
      if i.val < 8 then a.extractLsb' (28 - 4 * i.val) 4 else b.extractLsb' (60 - 4 * i.val) 4 := by
  unfold nib
  split
  · rw [BitVec.extractLsb'_append_eq_of_le (by omega), show 60 - 4 * i.val - 32 = 28 - 4 * i.val by omega]
  · rw [BitVec.extractLsb'_append_eq_of_add_le (by omega)]

theorem nib_xor (x y : Word64) (i : Fin 16) : nib (x ^^^ y) i = nib x i ^^^ nib y i := BitVec.extractLsb'_xor

/-- A round-key entry is determined by its 16 nibbles (R26). -/
theorem RkEntry.ext_nib {a b : RkEntry} (h : ∀ i : Fin 16, nib a.word i = nib b.word i) : a = b := by
  have repacked (x : RkEntry) : packEntry (unpack x.word) = x := by
    obtain ⟨hhigh, hlow⟩ := pack_unpack x.hi x.lo
    rw [RkEntry.word, packEntry, hhigh, hlow]
  have same_cells : unpack a.word = unpack b.word :=
    cells_ext fun i => (unpack_getElem _ i i.isLt).trans ((h i).trans (unpack_getElem _ i i.isLt).symm)
  rw [← repacked a, same_cells, repacked b]

/-! ### Round keys and the tweakey words they read -/

/-- An entry below `R` after an EXPAND that loads the tweakey state `T` is the packed round key of `T` (R88). -/
theorem keySchedule_entry {R : BitVec 6} {T : TweakeyState} {s t : State}
    (h : performRounds R (keySchedule lfsrScope T R) s = .next t) {e : Fin 48} (he : e.val < R.toNat) :
    t.rk[e] = packEntry (roundKey .all16 T e) := by
  obtain ⟨-, rfl⟩ := performRounds_eq_next.1 h
  exact (expandStore_getElem .all16 T R s.rk e).trans (if_pos he)

/-- Equal tweakey states give equal entries, whatever else the two states hold (R80). -/
theorem keySchedule_entry_congr {R : BitVec 6} {T T' : TweakeyState} {s s' t t' : State} {e : Fin 48}
    (he : e.val < R.toNat) (hT : T = T') (h : performRounds R (keySchedule lfsrScope T R) s = .next t)
    (h' : performRounds R (keySchedule lfsrScope T' R) s' = .next t') : t.rk[e] = t'.rk[e] := by
  rw [keySchedule_entry h he, keySchedule_entry h' he, hT]

/-- Settles O48: tweakey word `j` is loaded from `TK[2j]` and `TK[2j+1]`. -/
theorem roundKeysDependOnlyOnTheirTweakeyWords : Obligations.RoundKeysDependOnlyOnTheirTweakeyWords := by
  unfold Obligations.RoundKeysDependOnlyOnTheirTweakeyWords
  intro R s s' t t' e he h0 h1
  have word0 : unpackWord s.tk 0 = unpackWord s'.tk 0 := congrArg₂ (fun x y => unpack (x ++ y)) h0 h1
  refine ⟨keySchedule_entry_congr he (congrArg TweakeyState.single word0), fun h2 h3 => ?_⟩
  have word1 : unpackWord s.tk 1 = unpackWord s'.tk 1 := congrArg₂ (fun x y => unpack (x ++ y)) h2 h3
  refine ⟨keySchedule_entry_congr he (congrArg₂ TweakeyState.double word0 word1), fun h4 h5 => ?_⟩
  have word2 : unpackWord s.tk 2 = unpackWord s'.tk 2 := congrArg₂ (fun x y => unpack (x ++ y)) h4 h5
  exact keySchedule_entry_congr he (by rw [loadTriple, word0, word1, word2, loadTriple])

/-- Before the first permutation the active cells of the Single variant are the nibbles of `TK[0]` (R81, R82). -/
theorem extractActive_loadSingle (tk : Vector Word32 6) (i : Fin 16) :
    (extractActive (loadSingle tk))[i] = nib (tk[0] ++ (0 : Word32)) i := by
  have cell : (unpackWord tk 0)[i] = nib (tk[0] ++ tk[1]) i := unpack_getElem _ i i.isLt
  rw [loadSingle, extractActive_single, cell, nib_append, nib_append]
  split_ifs
  · rfl
  · exact BitVec.extractLsb'_zero.symm

/-- Settles O49: to the nibbles of `TK[0]` round 0 adds 1 in cell 0 and 2 in cell 8. -/
theorem singleRoundKeyZeroIsTheTweakey : Obligations.SingleRoundKeyZeroIsTheTweakey := by
  unfold Obligations.SingleRoundKeyZeroIsTheTweakey
  intro R s t hR h
  have entry : t.rk[(0 : Fin 48)] = ⟨s.tk[0] ^^^ 0x10000000, 0x20000000⟩ := by
    rw [keySchedule_entry (T := loadSingle s.tk) h hR]
    refine RkEntry.ext_nib fun i => ?_
    have before : tweakeyBefore .all16 (loadSingle s.tk) (0 : Fin 48).val = loadSingle s.tk := rfl
    have constants : roundConstant 0 i = nib ((0x10000000 : Word32) ++ (0x20000000 : Word32)) i := by revert i; decide
    have sum : (s.tk[0] ++ (0 : Word32)) ^^^ ((0x10000000 : Word32) ++ (0x20000000 : Word32)) =
        (s.tk[0] ^^^ 0x10000000) ++ (0x20000000 : Word32) := BitVec.xor_append
    rw [packEntry_nib, roundKey_cell, before, extractActive_loadSingle, constants, ← nib_xor, sum, RkEntry.word]
  exact ⟨congrArg RkEntry.hi entry, congrArg RkEntry.lo entry⟩

/-! ### Tweakeys with the same difference -/

/-- The first two words of cells differ as the last two do. -/
def SameDiff (a b a' b' : Nib16) : Prop := ∀ i : Fin 16, a[i] ^^^ b[i] = a'[i] ^^^ b'[i]

/-- Adding pairs with the same difference to pairs with the same difference gives such pairs. -/
theorem xor_same_diff {x y z w x' y' z' w' : Nibble} (h : x ^^^ y = z ^^^ w) (h' : x' ^^^ y' = z' ^^^ w') :
    (x ^^^ x') ^^^ (y ^^^ y') = (z ^^^ z') ^^^ (w ^^^ w') :=
  calc (x ^^^ x') ^^^ (y ^^^ y') = (x ^^^ y) ^^^ (x' ^^^ y') := by ac_rfl
    _ = (z ^^^ w) ^^^ (z' ^^^ w') := by rw [h, h']
    _ = (z ^^^ z') ^^^ (w ^^^ w') := by ac_rfl

theorem lfsr2_xor : ∀ x y : Nibble, lfsr2 (x ^^^ y) = lfsr2 x ^^^ lfsr2 y := by decide
theorem lfsr3_xor : ∀ x y : Nibble, lfsr3 (x ^^^ y) = lfsr3 x ^^^ lfsr3 y := by decide

section
variable {a b a' b' : Nib16}

theorem permuteWord_sameDiff (h : SameDiff a b a' b') :
    SameDiff (permuteWord a) (permuteWord b) (permuteWord a') (permuteWord b') := by
  intro i
  have cell (w : Nib16) : (permuteWord w)[i] = w[ptAt i] := permuteWord_getElem w i i.isLt
  rw [cell, cell, cell, cell]
  exact h (ptAt i)

/-- A permutation and an additive register keep the difference (R84 to R87). -/
theorem permuteThen_sameDiff {f : Nibble → Nibble} (hf : ∀ x y, f (x ^^^ y) = f x ^^^ f y)
    (h : SameDiff a b a' b') :
    SameDiff (permuteThen f a) (permuteThen f b) (permuteThen f a') (permuteThen f b') := by
  intro i
  have cell (w : Nib16) : (permuteThen f w)[i] = f (permuteWord w)[i] := Vector.getElem_map f i.isLt
  rw [cell, cell, cell, cell, ← hf, ← hf]
  exact congrArg f (permuteWord_sameDiff h i)

/-- An update that keeps the difference keeps it any number of times. -/
theorem iterate_sameDiff {g : Nib16 → Nib16}
    (hg : ∀ {a b a' b' : Nib16}, SameDiff a b a' b' → SameDiff (g a) (g b) (g a') (g b'))
    (h : SameDiff a b a' b') (n : Nat) :
    SameDiff (g^[n] a) (g^[n] b) (g^[n] a') (g^[n] b') := by
  induction n with
  | zero => exact h
  | succ n ih =>
    simp only [Function.iterate_succ_apply']
    exact hg ih

end

/-- The cells of two pairs of registers with the same differences differ in the same way (R81). -/
theorem unpackWord_sameDiff {a b a' b' : Vector Word32 6} (h : ∀ w : Fin 6, a[w] ^^^ b[w] = a'[w] ^^^ b'[w])
    (j : Fin 3) :
    SameDiff (unpackWord a j) (unpackWord b j) (unpackWord a' j) (unpackWord b' j) := by
  intro i
  have hhigh := h ⟨2 * j.val, by omega⟩
  have hlow := h ⟨2 * j.val + 1, by omega⟩
  have words : tweakeyWord a j ^^^ tweakeyWord b j = tweakeyWord a' j ^^^ tweakeyWord b' j := by
    unfold tweakeyWord
    rw [BitVec.xor_append, BitVec.xor_append]
    exact congrArg₂ (· ++ ·) hhigh hlow
  have nibbles := congrArg (nib · i) words
  simpa [unpackWord, nib_xor] using nibbles

/-! Round keys of tweakey words with the same differences have the same difference: the words' cells are added up, and
the constants cancel (R82, R83). -/

section
variable {a0 b0 a0' b0' a1 b1 a1' b1' a2 b2 a2' b2' : Nib16}

theorem roundKey_single_sameDiff (h0 : SameDiff a0 b0 a0' b0') (e : Fin 48) :
    SameDiff (roundKey .all16 (.single a0) e) (roundKey .all16 (.single b0) e) (roundKey .all16 (.single a0') e)
      (roundKey .all16 (.single b0') e) := by
  intro i
  simp only [roundKey_cell, tweakeyBefore_single, extractActive_single]
  refine xor_same_diff ?_ rfl
  split_ifs
  · exact iterate_sameDiff permuteWord_sameDiff h0 e i
  · rfl

theorem roundKey_double_sameDiff (h0 : SameDiff a0 b0 a0' b0') (h1 : SameDiff a1 b1 a1' b1') (e : Fin 48) :
    SameDiff (roundKey .all16 (.double a0 a1) e) (roundKey .all16 (.double b0 b1) e)
      (roundKey .all16 (.double a0' a1') e) (roundKey .all16 (.double b0' b1') e) := by
  intro i
  simp only [roundKey_cell, tweakeyBefore_double, extractActive_double]
  refine xor_same_diff ?_ rfl
  split_ifs
  · exact xor_same_diff (iterate_sameDiff permuteWord_sameDiff h0 e i)
      (iterate_sameDiff (permuteThen_sameDiff lfsr2_xor) h1 e i)
  · rfl

theorem roundKey_triple_sameDiff (h0 : SameDiff a0 b0 a0' b0') (h1 : SameDiff a1 b1 a1' b1')
    (h2 : SameDiff a2 b2 a2' b2') (e : Fin 48) :
    SameDiff (roundKey .all16 (.triple a0 a1 a2) e) (roundKey .all16 (.triple b0 b1 b2) e)
      (roundKey .all16 (.triple a0' a1' a2') e) (roundKey .all16 (.triple b0' b1' b2') e) := by
  intro i
  simp only [roundKey_cell, tweakeyBefore_triple, extractActive_triple]
  refine xor_same_diff ?_ rfl
  split_ifs
  · exact xor_same_diff (xor_same_diff (iterate_sameDiff permuteWord_sameDiff h0 e i)
      (iterate_sameDiff (permuteThen_sameDiff lfsr2_xor) h1 e i))
      (iterate_sameDiff (permuteThen_sameDiff lfsr3_xor) h2 e i)
  · rfl

end

/-- The difference of two entries, half by half. -/
def RkEntry.diff (x y : RkEntry) : RkEntry := ⟨x.hi ^^^ y.hi, x.lo ^^^ y.lo⟩

theorem RkEntry.nib_diff (x y : RkEntry) (i : Fin 16) : nib (x.diff y).word i = nib x.word i ^^^ nib y.word i := by
  have word_diff : (x.diff y).word = x.word ^^^ y.word := BitVec.xor_append.symm
  rw [word_diff, nib_xor]

/-- Packed cells with the same difference are entries with the same difference (R90). -/
theorem packEntry_diff {a b a' b' : Nib16} (h : SameDiff a b a' b') :
    (packEntry a).diff (packEntry b) = (packEntry a').diff (packEntry b') := by
  refine RkEntry.ext_nib fun i => ?_
  rw [RkEntry.nib_diff, RkEntry.nib_diff, packEntry_nib, packEntry_nib, packEntry_nib, packEntry_nib]
  exact h i

/-- Settles O50: loading, permuting, the two registers and adding up the words keep a difference, and the constants
cancel. -/
theorem roundKeysAreAffineInTheTweakey : Obligations.RoundKeysAreAffineInTheTweakey := by
  unfold Obligations.RoundKeysAreAffineInTheTweakey
  intro i R a b c d a' b' c' d' hi htk ha hb hc hd e he
  have word (j : Fin 3) := unpackWord_sameDiff htk j
  have entries : a'.rk[e].diff b'.rk[e] = c'.rk[e].diff d'.rk[e] := by
    obtain rfl | rfl | rfl := hi
    all_goals
      rw [keySchedule_entry ha he, keySchedule_entry hb he, keySchedule_entry hc he, keySchedule_entry hd he]
    · exact packEntry_diff (roundKey_single_sameDiff (word 0) e)
    · exact packEntry_diff (roundKey_double_sameDiff (word 0) (word 1) e)
    · exact packEntry_diff (roundKey_triple_sameDiff (word 0) (word 1) (word 2) e)
  exact RkEntry.mk.inj entries

/-! ### The all-zero tweakey -/

/-- The word of 16 zero cells. -/
def zeroWord : Nib16 := Vector.replicate 16 0

theorem zeroWord_cell (i : Fin 16) : zeroWord[i] = 0 := replicate_getElem 0 i

theorem unpackWord_zero {tk : Vector Word32 6} (h : ∀ w : Fin 6, tk[w] = 0) (j : Fin 3) :
    unpackWord tk j = zeroWord := by
  have hhigh := h ⟨2 * j.val, by omega⟩
  have hlow := h ⟨2 * j.val + 1, by omega⟩
  have hword : tweakeyWord tk j = (0 : Word32) ++ (0 : Word32) := congrArg₂ (· ++ ·) hhigh hlow
  rw [unpackWord, hword]
  rfl

/-- No number of updates moves a word of zeros, since an LFSR fixes 0 (R84 to R87). -/
theorem permuteThen_iterate_zero {f : Nibble → Nibble} (hf : f 0 = 0) (n : Nat) :
    (permuteThen f)^[n] zeroWord = zeroWord := by
  refine Function.iterate_fixed (cells_ext fun i => ?_) n
  calc (permuteThen f zeroWord)[i] = f (permuteWord zeroWord)[i] := Vector.getElem_map f i.isLt
    _ = f zeroWord[ptAt i] := congrArg f (permuteWord_getElem zeroWord i i.isLt)
    _ = zeroWord[i] := by rw [zeroWord_cell, hf, zeroWord_cell]

/-- Words of zeros beside word 0 add nothing to a round key (R82). -/
theorem roundKey_zero_words (t0 : Nib16) (e : Fin 48) :
    roundKey .all16 (.double t0 zeroWord) e = roundKey .all16 (.single t0) e ∧
      roundKey .all16 (.triple t0 zeroWord zeroWord) e = roundKey .all16 (.single t0) e := by
  have unchanged (x : Nibble) (i : Fin 16) : x ^^^ zeroWord[i] = x := by rw [zeroWord_cell]; exact BitVec.xor_zero
  have word1 := permuteThen_iterate_zero (f := lfsr2) rfl e
  have word2 := permuteThen_iterate_zero (f := lfsr3) rfl e
  refine ⟨cells_ext fun i => ?double, cells_ext fun i => ?triple⟩
  case double =>
    simp only [roundKey_cell, tweakeyBefore_single, tweakeyBefore_double, extractActive_single, extractActive_double,
      word1, unchanged]
  case triple =>
    simp only [roundKey_cell, tweakeyBefore_single, tweakeyBefore_triple, extractActive_single, extractActive_triple,
      word1, word2, unchanged]

/-- The write-back looks at the tweakey state through its round keys only (R88). -/
theorem keySchedule_congr {T T' : TweakeyState} (h : ∀ e, roundKey lfsrScope T e = roundKey lfsrScope T' e)
    (R : BitVec 6) : keySchedule lfsrScope T R = keySchedule lfsrScope T' R := by
  funext s
  simp only [keySchedule, expandStore, h]

/-- Settles O51: with every tweakey word 0 the words beside word 0 add nothing. -/
theorem zeroTweakeyRoundKeysAgree : Obligations.ZeroTweakeyRoundKeysAgree := by
  unfold Obligations.ZeroTweakeyRoundKeysAgree
  intro R s _ htk
  have word := unpackWord_zero htk
  simp only [exec, execExpandS, execExpandD, execExpandT, loadSingle, loadDouble, loadTriple, word]
  exact ⟨by rw [keySchedule_congr fun e => (roundKey_zero_words zeroWord e).1],
    by rw [keySchedule_congr fun e => (roundKey_zero_words zeroWord e).2]⟩

end Sys2Proof.Machine
end

section
/-! The block transform as a function of the block: it reads only the keys of its rounds, and for fixed keys it is a
bijection (R108 to R111; 41_block_transform.md section 3). -/

namespace Sys2Proof.Machine

/-! ### The keys it reads -/

/-- `n` rounds look at the entries below `n` only (R102). -/
theorem encryptRounds_congr {rk rk' : Vector RkEntry 48} (st : Nib16) {n : Nat} (hn : n ≤ 48)
    (h : ∀ e : Fin 48, e.val < n → rk[e] = rk'[e]) : encryptRounds rk n st = encryptRounds rk' n st := by
  induction n with
  | zero => rfl
  | succ n ih =>
    have key : rk[n] = rk'[n] := h ⟨n, hn⟩ (Nat.lt_succ_self n)
    have before := ih (Nat.le_of_succ_le hn) fun e he => h e (Nat.lt_succ_of_lt he)
    rw [encryptRounds_succ rk hn, encryptRounds_succ rk' hn, key, before]

/-- Settles O52: the output is packed from the rounds on the input block under the entries below `R`. -/
theorem encryptDependsOnlyOnBlockAndKeys : Obligations.EncryptDependsOnlyOnBlockAndKeys := by
  unfold Obligations.EncryptDependsOnlyOnBlockAndKeys
  intro R s s' t t' hblk hkeys h h'
  obtain ⟨legal, rfl⟩ := exec_eq_next.1 h
  obtain ⟨-, rfl⟩ := exec_eq_next.1 h'
  have rounds := encryptRounds_congr (unpack (blockWord s.blkIn)) legal hkeys
  simp only [finishCommand_blkOut, perform, blockTransform_blkOut, ← hblk]
  exact congrArg packBlock rounds

/-! ### Each step of a round is one-to-one -/

theorem subCells_injective : Function.Injective subCells := by
  intro a b h
  refine cells_ext fun i => sbox_injective ?_
  have cell (w : Nib16) : (subCells w)[i] = sbox w[i] := subCells_getElem w i i.isLt
  rw [← cell, ← cell, h]

theorem addRoundKey_injective (k : Nib16) : Function.Injective (addRoundKey k) := by
  intro a b h
  refine cells_ext fun i => (BitVec.xor_left_inj k[i]).1 ?_
  have cell (w : Nib16) : (addRoundKey k w)[i] = w[i] ^^^ k[i] := addRoundKey_getElem k w i i.isLt
  rw [← cell, ← cell, h]

/-- Every cell of the old state is a cell of the new one, since `SR` is a permutation (R34). -/
theorem shiftRows_injective : Function.Injective shiftRows := by
  intro a b h
  have sr_surjective : ∀ i : Fin 16, ∃ j : Fin 16, sr[j] = i := by decide
  refine cells_ext fun i => ?_
  obtain ⟨j, rfl⟩ := sr_surjective i
  have cell (w : Nib16) : (shiftRows w)[j] = w[sr[j]] := shiftRows_getElem w j j.isLt
  rw [← cell, ← cell, h]

/-- The old rows are found from the new ones: row 0 is the new row 1, and rows 2, 1 and 3 follow from it and the new
rows 3, 2 and 0 (R107). -/
theorem mixColumns_recover (st : Nib16) (col : Fin 4) :
    st[col.val] = (mixColumns st)[4 + col.val] ∧
      st[4 + col.val] =
        (mixColumns st)[8 + col.val] ^^^ ((mixColumns st)[4 + col.val] ^^^ (mixColumns st)[12 + col.val]) ∧
      st[8 + col.val] = (mixColumns st)[4 + col.val] ^^^ (mixColumns st)[12 + col.val] ∧
      st[12 + col.val] = (mixColumns st)[col.val] ^^^ (mixColumns st)[12 + col.val] := by
  have cancel (x y : Nibble) : x ^^^ (x ^^^ y) = y := by rw [← BitVec.xor_assoc, BitVec.xor_self, BitVec.zero_xor]
  have cancel_right (x y : Nibble) : x ^^^ y ^^^ y = x := by rw [BitVec.xor_assoc, BitVec.xor_self, BitVec.xor_zero]
  rw [mixColumns_row_zero, mixColumns_row_one, mixColumns_row_two, mixColumns_row_three, cancel, cancel_right,
    cancel_right]
  exact ⟨rfl, rfl, rfl, rfl⟩

theorem mixColumns_injective : Function.Injective mixColumns := by
  intro a b h
  refine Vector.ext fun i hi => ?_
  obtain ⟨col, hrow⟩ : ∃ col : Fin 4, i = col.val ∨ i = 4 + col.val ∨ i = 8 + col.val ∨ i = 12 + col.val :=
    ⟨⟨i % 4, by omega⟩, by dsimp only; omega⟩
  obtain ⟨a0, a1, a2, a3⟩ := mixColumns_recover a col
  obtain ⟨b0, b1, b2, b3⟩ := mixColumns_recover b col
  simp only [h] at a0 a1 a2 a3
  obtain rfl | rfl | rfl | rfl := hrow
  · exact a0.trans b0.symm
  · exact a1.trans b1.symm
  · exact a2.trans b2.symm
  · exact a3.trans b3.symm

/-! ### The whole transform is a bijection -/

theorem encryptRound_injective (k : Nib16) : Function.Injective (encryptRound k) :=
  mixColumns_injective.comp (shiftRows_injective.comp ((addRoundKey_injective k).comp subCells_injective))

/-- Any number of rounds is one-to-one, and so a permutation of the finitely many cipher states (R110). -/
theorem encryptRounds_bijective (rk : Vector RkEntry 48) {n : Nat} (hn : n ≤ 48) :
    Function.Bijective (encryptRounds rk n) := by
  have finite : Finite Nib16 :=
    Finite.of_injective (fun (w : Nib16) (i : Fin 16) => w[i]) fun _ _ h => cells_ext (congrFun h)
  refine Finite.injective_iff_bijective.1 ?_
  induction n with
  | zero => exact Function.injective_id
  | succ n ih =>
    have one_more : encryptRounds rk (n + 1) = encryptRound rk[n].cells ∘ encryptRounds rk n :=
      funext fun st => encryptRounds_succ rk hn st
    rw [one_more]
    exact (encryptRound_injective _).comp (ih (Nat.le_of_succ_le hn))

/-- Blocks and cipher states correspond one to one (R101, R108). -/
theorem packBlock_bijective : Function.Bijective packBlock :=
  Function.bijective_iff_has_inverse.2 ⟨fun b => unpack (blockWord b), unpack_packBlock, packBlock_unpack⟩

theorem unpack_blockWord_bijective : Function.Bijective fun b : Vector Word32 2 => unpack (blockWord b) :=
  Function.bijective_iff_has_inverse.2 ⟨packBlock, packBlock_unpack, unpack_packBlock⟩

/-- What ENCRYPT leaves in `BLK_OUT` for an input block (R108, R109). -/
theorem exec_encrypt_blkOut {R : BitVec 6} (legal : R.toNat ≤ 48) (s : State) (blk out : Vector Word32 2) :
    (∃ t : State, exec (.encrypt R) { s with blkIn := blk } = .next t ∧ t.blkOut = out) ↔
      packBlock (encryptRounds s.rk R.toNat (unpack (blockWord blk))) = out := by
  constructor
  · rintro ⟨t, h, rfl⟩
    obtain ⟨-, rfl⟩ := exec_eq_next.1 h
    rfl
  · exact fun hout => ⟨_, exec_next _ legal, hout⟩

/-- Settles O53: unpacking, the rounds and repacking are bijections one after the other. -/
theorem encryptIsABijectionOnBlocks : Obligations.EncryptIsABijectionOnBlocks := by
  unfold Obligations.EncryptIsABijectionOnBlocks
  intro R s legal out
  have bijective := packBlock_bijective.comp ((encryptRounds_bijective s.rk legal).comp unpack_blockWord_bijective)
  simp only [exec_encrypt_blkOut legal]
  exact bijective.existsUnique out

end Sys2Proof.Machine
end
